-- ==== Sys2Proof/Word.lean ====
section
/-! DEFINITION. The word types of the Anxiko/8mu CHIP-8 core and its fixed sizes (00_scope.md R9). -/
namespace Sys2Proof

/-- A byte: a register, a memory cell, a framebuffer byte (R32, R80, R47). -/
abbrev Byte := BitVec 8

/-- A 16-bit word: the instruction word, PC, I, a stack entry (R110, R37, R35, R43). -/
abbrev Word := BitVec 16

/-- A signed 64-bit count of milliseconds (R7, R61). -/
abbrev Time := BitVec 64

/-- The number of a general register, V0 to VF (R32), or of a logical key (R60). -/
abbrev Reg := Fin 16

/-- VF, the flag register (R33). -/
abbrev VF : Reg := 15

/-- The highest memory address (R9, R81). -/
abbrev topAddress : Nat := 0xFFF

/-- Where execution starts and the ROM lies (R9, R402). -/
abbrev programStart : Nat := 0x200

/-- The largest ROM, 4096 - 512 bytes (R9, R401). -/
abbrev maxRom : Nat := 3584

/-- The address of the first font byte (R90, R91). -/
abbrev fontBase : Nat := 0x050

/-- The font region 0x050..0x09F (R90). -/
abbrev InFont (a : Nat) : Prop := 0x050 ≤ a ∧ a ≤ 0x09F

end Sys2Proof
end

