-- ==== Sys2Proof/Syntax.lean ====
section
/-! DEFINITION. The 34 instructions, one constructor per row of spec/opcode_table.json, in the order of
30_encoding.md R120. Register fields are register numbers, `nn` is the byte of the word, `nnn` is the 12-bit
address zero-extended to 16 bits (R113), `n` is a row count. That `nnn` and `n` fit their fields is checked in
WellFormed.lean (log 10). -/
namespace Sys2Proof

inductive Instr where
  /-- CLEAR, 00E0 (R291). -/
  | clear
  /-- RETURN, 00EE (R161). -/
  | ret
  /-- JUMP, 1NNN (R162). -/
  | jump (nnn : Word)
  /-- CALL, 2NNN (R163). -/
  | call (nnn : Word)
  /-- SKIP_EQ_IMM, 3XNN (R164). -/
  | skipEqImm (x : Reg) (nn : Byte)
  /-- SKIP_NE_IMM, 4XNN (R165). -/
  | skipNeImm (x : Reg) (nn : Byte)
  /-- SKIP_EQ_REG, 5XY0 (R166). -/
  | skipEqReg (x y : Reg)
  /-- SET_IMM, 6XNN (R202). -/
  | setImm (x : Reg) (nn : Byte)
  /-- ADD_IMM, 7XNN (R203). -/
  | addImm (x : Reg) (nn : Byte)
  /-- COPY, 8XY0 (R204). -/
  | copy (x y : Reg)
  /-- OR, 8XY1 (R205). -/
  | orReg (x y : Reg)
  /-- AND, 8XY2 (R206). -/
  | andReg (x y : Reg)
  /-- XOR, 8XY3 (R207). -/
  | xorReg (x y : Reg)
  /-- ADD_REG, 8XY4 (R208). -/
  | addReg (x y : Reg)
  /-- SUB, 8XY5 (R209). -/
  | sub (x y : Reg)
  /-- SHIFT_RIGHT, 8XY6 (R210). -/
  | shiftRight (x y : Reg)
  /-- SUBN, 8XY7 (R211). -/
  | subn (x y : Reg)
  /-- SHIFT_LEFT, 8XYE (R212). -/
  | shiftLeft (x y : Reg)
  /-- SKIP_NE_REG, 9XY0 (R167). -/
  | skipNeReg (x y : Reg)
  /-- SET_INDEX, ANNN (R251). -/
  | setIndex (nnn : Word)
  /-- JUMP_OFFSET, BNNN or BXNN (R168): one bit pattern, whose 12-bit field is kept whole (R122). -/
  | jumpOffset (nnn : Word)
  /-- RAND, CXNN (R213). -/
  | rand (x : Reg) (nn : Byte)
  /-- DRAW, DXYN (R292). -/
  | draw (x y : Reg) (n : Nat)
  /-- SKIP_PRESSED, EX9E (R321). -/
  | skipPressed (x : Reg)
  /-- SKIP_NOT_PRESSED, EXA1 (R322). -/
  | skipNotPressed (x : Reg)
  /-- READ_DELAY, FX07 (R323). -/
  | readDelay (x : Reg)
  /-- WAIT_KEY, FX0A (R324). -/
  | waitKey (x : Reg)
  /-- SET_DELAY, FX15 (R325). -/
  | setDelay (x : Reg)
  /-- SET_SOUND, FX18 (R326). -/
  | setSound (x : Reg)
  /-- ADD_INDEX, FX1E (R252). -/
  | addIndex (x : Reg)
  /-- POINT_CHAR, FX29 (R253). -/
  | pointChar (x : Reg)
  /-- BCD, FX33 (R254). -/
  | bcd (x : Reg)
  /-- SAVE, FX55 (R255). -/
  | save (x : Reg)
  /-- LOAD, FX65 (R256). -/
  | load (x : Reg)
deriving DecidableEq, Repr

end Sys2Proof
end

