-- ==== Sys2Proof/WellFormed.lean ====
section
/-! DEFINITION. Which terms of `Instr` an instruction word can hold. Register numbers and immediate bytes fit
their fields by their types; an address must fit the 12-bit field `nnn` and a row count the 4-bit field `n`
(30_encoding.md R111, R113). -/
namespace Sys2Proof

/-- The address fits the 12-bit field `nnn`. -/
def addressFits (nnn : Word) : Bool := decide (nnn.toNat ≤ 0xFFF)

/-- The row count fits the 4-bit field `n`. -/
def countFits (n : Nat) : Bool := decide (n ≤ 15)

def Instr.wellFormed : Instr → Bool
  | .clear => true
  | .ret => true
  | .jump nnn => addressFits nnn
  | .call nnn => addressFits nnn
  | .skipEqImm _ _ => true
  | .skipNeImm _ _ => true
  | .skipEqReg _ _ => true
  | .setImm _ _ => true
  | .addImm _ _ => true
  | .copy _ _ => true
  | .orReg _ _ => true
  | .andReg _ _ => true
  | .xorReg _ _ => true
  | .addReg _ _ => true
  | .sub _ _ => true
  | .shiftRight _ _ => true
  | .subn _ _ => true
  | .shiftLeft _ _ => true
  | .skipNeReg _ _ => true
  | .setIndex nnn => addressFits nnn
  | .jumpOffset nnn => addressFits nnn
  | .rand _ _ => true
  | .draw _ _ n => countFits n
  | .skipPressed _ => true
  | .skipNotPressed _ => true
  | .readDelay _ => true
  | .waitKey _ => true
  | .setDelay _ => true
  | .setSound _ => true
  | .addIndex _ => true
  | .pointChar _ => true
  | .bcd _ => true
  | .save _ => true
  | .load _ => true

end Sys2Proof
end

