-- ==== Sys2Proof/Decode.lean ====
section
/-! DEFINITION. Decoding and encoding (30_encoding.md). The decoder follows the dispatch of R117 and R119, the
encoder the patterns and layouts of R112 and R120, and the opcode table is R120 as data. -/
namespace Sys2Proof

/-! ## Fields (R111) -/

/-- `op` = w[15:12]. -/
def fieldOp (w : Word) : BitVec 4 := w.extractLsb' 12 4

/-- `x` = w[11:8]. -/
def fieldX (w : Word) : Reg := (w.extractLsb' 8 4).toFin

/-- `y` = w[7:4]. -/
def fieldY (w : Word) : Reg := (w.extractLsb' 4 4).toFin

/-- `n` = w[3:0]. -/
def fieldN (w : Word) : BitVec 4 := w.extractLsb' 0 4

/-- `nn` = w[7:0]. -/
def fieldNn (w : Word) : Byte := w.extractLsb' 0 8

/-- `nnn` = w[11:0]. -/
def fieldNnn (w : Word) : BitVec 12 := w.extractLsb' 0 12

/-! ## Decoding -/

/-- Secondary dispatch of top nibble 0x8, on the low nibble (R119). -/
def decodeAlu (x y : Reg) (n : BitVec 4) : Option Instr :=
  match n with
  | 0x0#4 => some (.copy x y)
  | 0x1#4 => some (.orReg x y)
  | 0x2#4 => some (.andReg x y)
  | 0x3#4 => some (.xorReg x y)
  | 0x4#4 => some (.addReg x y)
  | 0x5#4 => some (.sub x y)
  | 0x6#4 => some (.shiftRight x y)
  | 0x7#4 => some (.subn x y)
  | 0xE#4 => some (.shiftLeft x y)
  | _ => none

/-- Secondary dispatch of top nibble 0xE, on the low byte (R119). -/
def decodeKey (x : Reg) (nn : Byte) : Option Instr :=
  match nn with
  | 0x9E#8 => some (.skipPressed x)
  | 0xA1#8 => some (.skipNotPressed x)
  | _ => none

/-- Secondary dispatch of top nibble 0xF, on the low byte (R119). -/
def decodeMisc (x : Reg) (nn : Byte) : Option Instr :=
  match nn with
  | 0x07#8 => some (.readDelay x)
  | 0x0A#8 => some (.waitKey x)
  | 0x15#8 => some (.setDelay x)
  | 0x18#8 => some (.setSound x)
  | 0x1E#8 => some (.addIndex x)
  | 0x29#8 => some (.pointChar x)
  | 0x33#8 => some (.bcd x)
  | 0x55#8 => some (.save x)
  | 0x65#8 => some (.load x)
  | _ => none

/-- The instruction a word stands for, or `none` for INVALID (R117 to R119, R123). -/
def decodeWord (w : Word) : Option Instr :=
  match fieldOp w with
  | 0x0#4 => if fieldNnn w = 0x0E0#12 then some .clear else if fieldNnn w = 0x0EE#12 then some .ret else none
  | 0x1#4 => some (.jump ((fieldNnn w).setWidth 16))
  | 0x2#4 => some (.call ((fieldNnn w).setWidth 16))
  | 0x3#4 => some (.skipEqImm (fieldX w) (fieldNn w))
  | 0x4#4 => some (.skipNeImm (fieldX w) (fieldNn w))
  | 0x5#4 => if fieldN w = 0x0#4 then some (.skipEqReg (fieldX w) (fieldY w)) else none
  | 0x6#4 => some (.setImm (fieldX w) (fieldNn w))
  | 0x7#4 => some (.addImm (fieldX w) (fieldNn w))
  | 0x8#4 => decodeAlu (fieldX w) (fieldY w) (fieldN w)
  | 0x9#4 => if fieldN w = 0x0#4 then some (.skipNeReg (fieldX w) (fieldY w)) else none
  | 0xA#4 => some (.setIndex ((fieldNnn w).setWidth 16))
  | 0xB#4 => some (.jumpOffset ((fieldNnn w).setWidth 16))
  | 0xC#4 => some (.rand (fieldX w) (fieldNn w))
  | 0xD#4 => some (.draw (fieldX w) (fieldY w) (fieldN w).toNat)
  | 0xE#4 => decodeKey (fieldX w) (fieldNn w)
  | 0xF#4 => decodeMisc (fieldX w) (fieldNn w)
  | _ => none

/-- Why bytes hold no instruction. -/
inductive DecodeError where
  /-- The word matches no row of R120: INVALID (R123, R124). -/
  | invalid (w : Word)
  /-- Fewer than the two bytes of an instruction (R110). -/
  | tooShort
deriving DecidableEq, Repr

/-- A word is stored high byte first (R86). -/
def wordOfBytes (hi lo : Byte) : Word := hi ++ lo

/-- Decoding from memory bytes: the instruction and the bytes after it (R86, R110). -/
def decodeBytes : List Byte → Except DecodeError (Instr × List Byte)
  | hi :: lo :: rest =>
    match decodeWord (wordOfBytes hi lo) with
    | some i => .ok (i, rest)
    | none => .error (.invalid (wordOfBytes hi lo))
  | [_] => .error .tooShort
  | [] => .error .tooShort

/-! ## Encoding -/

/-- Four nibbles, high to low (R10). -/
def pack (op x y n : BitVec 4) : Word := op ++ x ++ y ++ n

/-- Formats XNN and X: op[4] x[4] nn[8] (R112). -/
def packByte (op x : BitVec 4) (nn : Byte) : Word := op ++ x ++ nn

/-- Format A: op[4] nnn[12] (R112). -/
def packAddress (op : BitVec 4) (nnn : Word) : Word := op ++ nnn.setWidth 12

/-- A register number as its 4-bit field (R113). -/
def regField (x : Reg) : BitVec 4 := BitVec.ofFin x

/-- The word of an instruction (R112, R120). -/
def encode : Instr → Word
  | .clear => 0x00E0#16
  | .ret => 0x00EE#16
  | .jump nnn => packAddress 0x1#4 nnn
  | .call nnn => packAddress 0x2#4 nnn
  | .skipEqImm x nn => packByte 0x3#4 (regField x) nn
  | .skipNeImm x nn => packByte 0x4#4 (regField x) nn
  | .skipEqReg x y => pack 0x5#4 (regField x) (regField y) 0x0#4
  | .setImm x nn => packByte 0x6#4 (regField x) nn
  | .addImm x nn => packByte 0x7#4 (regField x) nn
  | .copy x y => pack 0x8#4 (regField x) (regField y) 0x0#4
  | .orReg x y => pack 0x8#4 (regField x) (regField y) 0x1#4
  | .andReg x y => pack 0x8#4 (regField x) (regField y) 0x2#4
  | .xorReg x y => pack 0x8#4 (regField x) (regField y) 0x3#4
  | .addReg x y => pack 0x8#4 (regField x) (regField y) 0x4#4
  | .sub x y => pack 0x8#4 (regField x) (regField y) 0x5#4
  | .shiftRight x y => pack 0x8#4 (regField x) (regField y) 0x6#4
  | .subn x y => pack 0x8#4 (regField x) (regField y) 0x7#4
  | .shiftLeft x y => pack 0x8#4 (regField x) (regField y) 0xE#4
  | .skipNeReg x y => pack 0x9#4 (regField x) (regField y) 0x0#4
  | .setIndex nnn => packAddress 0xA#4 nnn
  | .jumpOffset nnn => packAddress 0xB#4 nnn
  | .rand x nn => packByte 0xC#4 (regField x) nn
  | .draw x y n => pack 0xD#4 (regField x) (regField y) (BitVec.ofNat 4 n)
  | .skipPressed x => packByte 0xE#4 (regField x) 0x9E#8
  | .skipNotPressed x => packByte 0xE#4 (regField x) 0xA1#8
  | .readDelay x => packByte 0xF#4 (regField x) 0x07#8
  | .waitKey x => packByte 0xF#4 (regField x) 0x0A#8
  | .setDelay x => packByte 0xF#4 (regField x) 0x15#8
  | .setSound x => packByte 0xF#4 (regField x) 0x18#8
  | .addIndex x => packByte 0xF#4 (regField x) 0x1E#8
  | .pointChar x => packByte 0xF#4 (regField x) 0x29#8
  | .bcd x => packByte 0xF#4 (regField x) 0x33#8
  | .save x => packByte 0xF#4 (regField x) 0x55#8
  | .load x => packByte 0xF#4 (regField x) 0x65#8

/-- The two bytes of a word as memory holds it (R86). -/
def bytesOfWord (w : Word) : List Byte := [w.extractLsb' 8 8, w.extractLsb' 0 8]

/-- The bytes of an instruction as memory holds them (R86, R110). -/
def encodeBytes (i : Instr) : List Byte := bytesOfWord (encode i)

/-! ## The opcode table (R120) -/

/-- A row of R120: a word belongs to it when `w &&& mask = pattern` (R118). -/
structure OpcodeRow where
  mnemonic : String
  pattern : Word
  mask : Word
deriving DecidableEq, Repr

/-- Rows 1 to 17 of R120. -/
def opcodeRowsLow : List OpcodeRow :=
  [⟨"CLEAR", 0x00E0, 0xFFFF⟩, ⟨"RETURN", 0x00EE, 0xFFFF⟩, ⟨"JUMP", 0x1000, 0xF000⟩, ⟨"CALL", 0x2000, 0xF000⟩,
   ⟨"SKIP_EQ_IMM", 0x3000, 0xF000⟩, ⟨"SKIP_NE_IMM", 0x4000, 0xF000⟩, ⟨"SKIP_EQ_REG", 0x5000, 0xF00F⟩,
   ⟨"SET_IMM", 0x6000, 0xF000⟩, ⟨"ADD_IMM", 0x7000, 0xF000⟩, ⟨"COPY", 0x8000, 0xF00F⟩, ⟨"OR", 0x8001, 0xF00F⟩,
   ⟨"AND", 0x8002, 0xF00F⟩, ⟨"XOR", 0x8003, 0xF00F⟩, ⟨"ADD_REG", 0x8004, 0xF00F⟩, ⟨"SUB", 0x8005, 0xF00F⟩,
   ⟨"SHIFT_RIGHT", 0x8006, 0xF00F⟩, ⟨"SUBN", 0x8007, 0xF00F⟩]

/-- Rows 18 to 34 of R120. -/
def opcodeRowsHigh : List OpcodeRow :=
  [⟨"SHIFT_LEFT", 0x800E, 0xF00F⟩, ⟨"SKIP_NE_REG", 0x9000, 0xF00F⟩, ⟨"SET_INDEX", 0xA000, 0xF000⟩,
   ⟨"JUMP_OFFSET", 0xB000, 0xF000⟩, ⟨"RAND", 0xC000, 0xF000⟩, ⟨"DRAW", 0xD000, 0xF000⟩,
   ⟨"SKIP_PRESSED", 0xE09E, 0xF0FF⟩, ⟨"SKIP_NOT_PRESSED", 0xE0A1, 0xF0FF⟩, ⟨"READ_DELAY", 0xF007, 0xF0FF⟩,
   ⟨"WAIT_KEY", 0xF00A, 0xF0FF⟩, ⟨"SET_DELAY", 0xF015, 0xF0FF⟩, ⟨"SET_SOUND", 0xF018, 0xF0FF⟩,
   ⟨"ADD_INDEX", 0xF01E, 0xF0FF⟩, ⟨"POINT_CHAR", 0xF029, 0xF0FF⟩, ⟨"BCD", 0xF033, 0xF0FF⟩,
   ⟨"SAVE", 0xF055, 0xF0FF⟩, ⟨"LOAD", 0xF065, 0xF0FF⟩]

/-- The whole opcode table of R120, in its order. -/
def opcodeTable : List OpcodeRow := opcodeRowsLow ++ opcodeRowsHigh

/-- The place of an instruction's row in `opcodeTable`, counted from 0 (the number R120 gives, less one). -/
def Instr.rowIndex : Instr → Fin 34
  | .clear => 0
  | .ret => 1
  | .jump _ => 2
  | .call _ => 3
  | .skipEqImm _ _ => 4
  | .skipNeImm _ _ => 5
  | .skipEqReg _ _ => 6
  | .setImm _ _ => 7
  | .addImm _ _ => 8
  | .copy _ _ => 9
  | .orReg _ _ => 10
  | .andReg _ _ => 11
  | .xorReg _ _ => 12
  | .addReg _ _ => 13
  | .sub _ _ => 14
  | .shiftRight _ _ => 15
  | .subn _ _ => 16
  | .shiftLeft _ _ => 17
  | .skipNeReg _ _ => 18
  | .setIndex _ => 19
  | .jumpOffset _ => 20
  | .rand _ _ => 21
  | .draw _ _ _ => 22
  | .skipPressed _ => 23
  | .skipNotPressed _ => 24
  | .readDelay _ => 25
  | .waitKey _ => 26
  | .setDelay _ => 27
  | .setSound _ => 28
  | .addIndex _ => 29
  | .pointChar _ => 30
  | .bcd _ => 31
  | .save _ => 32
  | .load _ => 33

/-- The row of R120 with a given place. -/
def opcodeRow (k : Fin 34) : OpcodeRow := opcodeTable[k.val]'k.isLt

/-- The instruction the decoder reads from an instruction whose first `nbits` bits are `w` and whose other bits
are 0. Every instruction is one 16-bit word, so bit 0 of `w` is bit 0 of that word (R10, R110). -/
def decodeTableWord (nbits w : Nat) : Option Instr :=
  match decodeBytes (bytesOfWord (BitVec.ofNat 16 (w % 2 ^ nbits))) with
  | .ok (i, _) => some i
  | .error _ => none

end Sys2Proof
end

