-- ==== Sys2Proof/Config.lean ====
section
/-! DEFINITION. What an implementation fixes (the configuration record of 00_scope.md R8) and what is free in
each cycle (the draws of R146, D7, D9, D12, D22 and the host's operations of R385). Neither has a body:
nothing in Lean can evaluate them, so a theorem holds whatever they are. -/
namespace Sys2Proof

/-- SHIFT_SOURCE (R8): which register the shifts read. -/
inductive ShiftSource where
  | vy
  | vx
deriving DecidableEq, Repr, Inhabited

/-- JUMP_OFFSET_MODE (R8, R122): which meaning row 21 has. -/
inductive JumpOffsetMode where
  | bnnn
  | bxnn
deriving DecidableEq, Repr, Inhabited

/-- ADD_INDEX_VF (R8): whether ADD_INDEX writes the overflow bit to VF. -/
inductive AddIndexVf where
  | set
  | never
deriving DecidableEq, Repr, Inhabited

/-- SAVE_INCREMENT_I (R8): whether SAVE moves I past the bytes it stored. -/
inductive SaveIncrementI where
  | increment
  | keep
deriving DecidableEq, Repr, Inhabited

/-- VF_ALIAS_POLICY (R8, R201): what VF holds when it is the destination of a flag-setting instruction. -/
inductive VfAliasPolicy where
  | flagLast
  | resultLast
  | either
deriving DecidableEq, Repr, Inhabited

/-- BCD_UNSETTLED (R8, R254): whether BCD writes the leading zero digits the source leaves unsettled. -/
inductive BcdUnsettled where
  | keep
  | zero
  | either
deriving DecidableEq, Repr, Inhabited

/-- The configuration record of R8. -/
structure Config where
  shiftSource : ShiftSource
  jumpOffsetMode : JumpOffsetMode
  addIndexVf : AddIndexVf
  saveIncrementI : SaveIncrementI
  /-- FONT: the 80 glyph bytes at 0x050 (R8, D21). -/
  font : Vector Byte 80
  vfAliasPolicy : VfAliasPolicy
  bcdUnsettled : BcdUnsettled
deriving DecidableEq, Repr, Inhabited

/-- The configuration of the machine, fixed for the run (R4, R31). DEDUCED from R8, "a model takes the record
as a parameter of the whole run"; the four options and FONT are OPEN there. Log 3; safe. -/
opaque Config.current : Config

/-- The draws of one CYCLE (R7, R146; D7, D9, D12, D22). -/
structure CycleInput where
  /-- The time a timer access of this cycle reads. -/
  now : Time
  /-- The byte RAND reads. -/
  rnd : Byte
  /-- Under VF_ALIAS_POLICY = EITHER: true keeps the flag in VF, false the result. -/
  vfTakesFlag : Bool
  /-- Under BCD_UNSETTLED = EITHER: true writes 0 as the unsettled tens digit, false leaves the byte. -/
  bcdZeroTens : Bool
  /-- Under BCD_UNSETTLED = EITHER: true writes 0 as the unsettled ones digit, false leaves the byte. -/
  bcdZeroOnes : Bool
deriving DecidableEq, Repr, Inhabited

/-- The operations the host may perform between two cycles (R385). -/
inductive HostOp where
  /-- SET_KEYS(k): bit i of k is logical key i (R380). -/
  | setKeys (k : BitVec 16)
  /-- READ_PIXEL(x, y) (R55): no state changes. -/
  | readPixel (x : Fin 64) (y : Fin 32)
  /-- REFRESH_BEEPER(now) (R375). -/
  | refreshBeeper (now : Time)
deriving DecidableEq, Repr

/-- What the host does from the end of one cycle to the end of the next: any number of operations in any
order (R385), then CYCLE with its inputs. -/
structure HostTurn where
  before : List HostOp
  input : CycleInput
deriving DecidableEq, Repr, Inhabited

/-- The host's turn number k: a free value, under no law (R146, R373, R385). DEDUCED, log 1; safe. -/
opaque Config.turn : Nat → HostTurn

end Sys2Proof
end

