-- ==== Sys2Proof/Machine/State.lean ====
section
/-! DEFINITION. The state of the core (10_state.md), the reasons a step can stop, and the state after reset. -/
namespace Sys2Proof.Machine

/-- Memory as the cells that differ from what an unlisted address reads as (Machine/Ops.lean). -/
abbrev Memory := List Host.Cell

/-- The framebuffer, 256 bytes (10_state.md R47). -/
abbrev Framebuffer := Vector Byte 256

/-- The faults of 60_exceptions.md R351, all fatal (R350). -/
inductive FaultCode where
  /-- Code 1: the fetched word matches no row. -/
  | invalidOpcode
  /-- Code 2: fetch with PC + 1 > 0xFFF. -/
  | fetchRange
  /-- Code 3: a data access above 0xFFF. -/
  | memRange
  /-- Code 4: CALL with SP = 16. -/
  | stackOverflow
  /-- Code 5: RETURN with SP = 0. -/
  | stackUnderflow
  /-- Code 6: a key skip with Vx > 15. -/
  | keyRange
  /-- Code 7: a write into the font region. -/
  | fontWrite
deriving DecidableEq, Repr

/-- The code numbers of R351. -/
def FaultCode.number : FaultCode → Nat
  | .invalidOpcode => 1
  | .fetchRange => 2
  | .memRange => 3
  | .stackOverflow => 4
  | .stackUnderflow => 5
  | .keyRange => 6
  | .fontWrite => 7

/-- The halt record (10_state.md R63, 60_exceptions.md R353). -/
structure HaltRecord where
  code : FaultCode
  /-- The address the faulting instruction was fetched from. -/
  pc : Word
  /-- The instruction word, none for FETCH_RANGE. -/
  word : Option Word
  /-- The address R351 says is recorded. -/
  addr : Option Nat
deriving DecidableEq, Repr

/-- A deadline timer (10_state.md R61): a signed 64-bit time stamp and an 8-bit value. -/
structure Timer where
  ts : Time
  val : Byte
deriving DecidableEq, Repr

/-- Why `step` stops. -/
inductive Fault where
  /-- CYCLE on a halted core: it has no step (40_cycle.md R148). Raised by `cycle` alone; safe: the spec gives
  the halted core no behaviour to leave out. -/
  | halted (r : HaltRecord)
deriving DecidableEq, Repr

/-- Why an operation has no meaning. -/
inductive Refusal where
  /-- An instruction without a meaning. Raised by no arm of `exec`; safe. -/
  | notModelled (mnemonic : String)
  /-- RESET of a ROM image longer than 3584 bytes (70_reset_and_hazards.md R401). Raised by `resetRom` alone,
  never by a step; safe: the spec gives such an image no reset state. -/
  | romTooLong (length : Nat)
deriving DecidableEq, Repr

/-- The machine's state: the aggregate `CpuState` with the halt record (10_state.md R30, R63), then three
fields of the model's own that carry the draws and the host's operations (logs 1 and 2). -/
structure State where
  mem : Memory
  stack : Vector Word 16
  /-- SP, the number of valid stack entries (R43). -/
  sp : Fin 17
  pc : Word
  i : Word
  v : Vector Byte 16
  fb : Framebuffer
  /-- SND, sound_playing (R62). -/
  snd : Bool
  /-- KEY: bit k is logical key k, 1 when it is down (R60). -/
  keys : BitVec 16
  dt : Timer
  st : Timer
  halt : Option HaltRecord
  /-- The model's own: the draws of the running cycle (R146). -/
  input : CycleInput
  /-- The model's own: how many host turns were taken, the index of the next free one. -/
  cycles : Nat
  /-- The model's own: host turns already decided, taken before free ones. -/
  pending : List HostTurn
deriving DecidableEq, Repr

/-- The state right after RESET with an empty ROM (R65, R400, R401). Memory lists nothing: the reset contents,
the font among them, are what unlisted addresses read as (log 4). The last three fields are the model's own
(log 2). -/
def State.reset : State where
  mem := []
  stack := Vector.replicate 16 0
  sp := 0
  pc := 0x0200
  i := 0
  v := Vector.replicate 16 0
  fb := Vector.replicate 256 0
  snd := false
  keys := 0
  dt := ⟨0, 0⟩
  st := ⟨0, 0⟩
  halt := none
  input := ⟨0, 0, false, false, false⟩
  cycles := 0
  pending := []

end Sys2Proof.Machine
end

