-- ==== Sys2Proof/Machine/Ops.lean ====
section
/-! DEFINITION. The named operations over memory, registers, the stack and the halt record: every read and write
of the state goes through them. Taking a fault is `State.takeFault`, shared by all. There is no return from a
fault (60_exceptions.md R358): only RESET (Machine/HostPort.lean) clears the halt record. -/
namespace Sys2Proof.Machine

/-! ## Memory (20_memory.md) -/

/-- What an address reads as that memory does not list: the reset contents, FONT at 0x050..0x09F and zero
elsewhere (R65, R90). Log 4. -/
def Memory.unlisted (a : Nat) : Byte :=
  if h : InFont a then Config.current.font[a - fontBase]'(by have := h.1; have := h.2; simp only [fontBase]; omega) else 0

/-- The canonical form: addresses strictly rising, inside the address space, and no cell equal to what its
address reads as unlisted. -/
abbrev Memory.wf (m : Memory) : Prop :=
  m.Pairwise (fun c d => c.1 < d.1) ∧ ∀ c ∈ m, c.1 ≤ topAddress ∧ c.2 ≠ Memory.unlisted c.1

/-- M[a] (R80). -/
def Memory.read : Memory → Nat → Byte
  | [], a => Memory.unlisted a
  | c :: m, a => if c.1 = a then c.2 else Memory.read m a

/-- A cell put at its place in rising order. -/
def Memory.insertCell : Memory → Nat → Byte → Memory
  | [], a, b => [(a, b)]
  | c :: m, a, b =>
    if c.1 < a then c :: Memory.insertCell m a b
    else if c.1 = a then (a, b) :: m
    else (a, b) :: c :: m

/-- A cell taken out. -/
def Memory.eraseCell (m : Memory) (a : Nat) : Memory := m.filter (fun c => c.1 ≠ a)

/-- M[a] <- b, keeping the canonical form; an address above 0xFFF does not exist (R81) and nothing is written
there. -/
def Memory.write (m : Memory) (a : Nat) (b : Byte) : Memory :=
  if topAddress < a then m
  else if b = Memory.unlisted a then Memory.eraseCell m a
  else Memory.insertCell m a b

/-- M[a + k] <- bs[k], in ascending order (R255). -/
def Memory.writeBytes : Memory → Nat → List Byte → Memory
  | m, _, [] => m
  | m, a, b :: bs => Memory.writeBytes (Memory.write m a b) (a + 1) bs

/-- A byte that may be left alone (R254). -/
def Memory.writeIf (m : Memory) (a : Nat) : Option Byte → Memory
  | none => m
  | some b => Memory.write m a b

/-- The check of MemRead(a, 1) (R82). -/
def readCheck (a : Nat) : Option FaultCode := if topAddress < a then some .memRange else none

/-- The checks of MemWrite(a, 1, v), in their order (R83). -/
def writeCheck (a : Nat) : Option FaultCode :=
  if topAddress < a then some .memRange else if InFont a then some .fontWrite else none

/-- The first address of a list that fails a check, with the fault (R250, D17). -/
def firstFault (check : Nat → Option FaultCode) : List Nat → Option (FaultCode × Nat)
  | [] => none
  | a :: as =>
    match check a with
    | some c => some (c, a)
    | none => firstFault check as

/-! ## Single pieces of state -/

/-- V[x] (10_state.md R32). -/
def State.reg (s : State) (x : Reg) : Byte := s.v[x]

/-- V[x] <- b (R12, R32). -/
def State.setReg (s : State) (x : Reg) (b : Byte) : State := { s with v := s.v.set x b }

/-- The whole register bank. -/
def State.setRegs (s : State) (v : Vector Byte 16) : State := { s with v := v }

/-- PC <- target (R38). -/
def State.setPc (s : State) (pc : Word) : State := { s with pc := pc }

/-- I <- value (R35). -/
def State.setI (s : State) (i : Word) : State := { s with i := i }

def State.setMem (s : State) (m : Memory) : State := { s with mem := m }

def State.setFb (s : State) (fb : Framebuffer) : State := { s with fb := fb }

def State.setSnd (s : State) (b : Bool) : State := { s with snd := b }

def State.setKeys (s : State) (k : BitVec 16) : State := { s with keys := k }

def State.setDt (s : State) (t : Timer) : State := { s with dt := t }

def State.setSt (s : State) (t : Timer) : State := { s with st := t }

/-- The draws of the cycle that begins (40_cycle.md R146). -/
def State.setInput (s : State) (input : CycleInput) : State := { s with input := input }

/-- A taken skip adds 2 to the post-fetch PC, without a 12-bit mask (41_control_flow.md R160, D4). -/
def State.skipIf (s : State) (taken : Bool) : State := s.setPc (if taken then s.pc + 2 else s.pc)

/-! ## Stack (10_state.md R43 to R46) -/

/-- push(w): S[SP] <- w, SP <- SP + 1 (R44), where the stack is not full. -/
def State.push (s : State) (w : Word) (h : s.sp.val < 16) : State :=
  { s with stack := s.stack.set s.sp.val w h, sp := ⟨s.sp.val + 1, by omega⟩ }

/-- The entry pop returns: S[SP - 1] (R45). -/
def State.top (s : State) (h : 0 < s.sp.val) : Word := s.stack[s.sp.val - 1]'(by omega)

/-- SP <- SP - 1; the entry is not cleared (R45, R46). -/
def State.drop (s : State) (h : 0 < s.sp.val) : State := { s with sp := ⟨s.sp.val - 1, by omega⟩ }

/-! ## Taking a fault (60_exceptions.md) -/

/-- Fault entry: HALT is set and nothing else changes (R353, R354, R357). Log 5. -/
def State.takeFault (s : State) (r : HaltRecord) : State := { s with halt := some r }

/-- A fault of the decode or execute stage: there `pc` is the post-fetch PC, so the instruction was fetched
from PC - 2 (R353). Log 6. -/
def State.raise (s : State) (code : FaultCode) (word : Word) (addr : Option Nat) : State :=
  s.takeFault ⟨code, s.pc - 2, some word, addr⟩

/-- `done`, unless one of the addresses fails its check: then the fault of the lowest one, with no write kept
(R13, R250, R354). -/
def State.guarded (s : State) (check : Nat → Option FaultCode) (addrs : List Nat) (word : Word) (done : State) : State :=
  match firstFault check addrs with
  | some (code, a) => s.raise code word (some a)
  | none => done

end Sys2Proof.Machine
end

