-- ==== Sys2Proof/Machine/Operands.lean ====
section
/-! DEFINITION. Every operand form: register values, index-relative addresses, the sources and targets that the
configuration selects, digits, keys and sprites. -/
namespace Sys2Proof.Machine

/-- The addresses I, I + 1, ..., I + n - 1, not masked (20_memory.md R93, 43_index_memory.md R257). -/
def indexSpan (i : Word) (n : Nat) : List Nat := (List.range n).map (i.toNat + ·)

/-- A 12-bit masked sum, zero-extended to 16 bits (R93, R250). -/
def masked12 (t : Nat) : Word := BitVec.ofNat 16 (t % 4096)

/-- The value a shift works on (42_register_alu.md R210, R212). -/
def shiftValue (source : ShiftSource) (vx vy : Byte) : Byte :=
  match source with
  | .vy => vy
  | .vx => vx

/-- The digit `x` of a 12-bit field (30_encoding.md R111). -/
def digitX (nnn : Word) : Reg := (nnn.extractLsb' 8 4).toFin

/-- The low byte `nn` of a 12-bit field (R111). -/
def lowByte (nnn : Word) : Byte := nnn.extractLsb' 0 8

/-- JUMP_OFFSET's target: V0 + nnn, or Vx + nn, masked to 12 bits (41_control_flow.md R168). -/
def jumpOffsetTarget (mode : JumpOffsetMode) (nnn : Word) (v : Vector Byte 16) : Word :=
  match mode with
  | .bnnn => masked12 (v[(0 : Reg)].toNat + nnn.toNat)
  | .bxnn => masked12 (v[digitX nnn].toNat + (lowByte nnn).toNat)

/-- character_address(c) = 0x050 + 5 * c of the low nibble (20_memory.md R91, R253). -/
def charAddress (b : Byte) : Word := BitVec.ofNat 16 (fontBase + 5 * (b.toNat % 16))

/-- A digit BCD may leave unsettled (43_index_memory.md R254): `none` leaves the byte; `zeroIt` is the cycle's
draw under EITHER. -/
def unsettledDigit (policy : BcdUnsettled) (zeroIt : Bool) : Option Byte :=
  match policy with
  | .keep => none
  | .zero => some 0
  | .either => if zeroIt then some 0 else none

/-- What BCD writes at I: only for a value of 100 or more (R254, C12). -/
def hundredsDigit (b : Byte) : Option Byte := if 100 ≤ b.toNat then some (BitVec.ofNat 8 (b.toNat / 100)) else none

/-- What BCD writes at I + 1 (R254). -/
def tensDigit (policy : BcdUnsettled) (zeroIt : Bool) (b : Byte) : Option Byte :=
  if 10 ≤ b.toNat then some (BitVec.ofNat 8 (b.toNat / 10 % 10)) else unsettledDigit policy zeroIt

/-- What BCD writes at I + 2 (R254). -/
def onesDigit (policy : BcdUnsettled) (zeroIt : Bool) (b : Byte) : Option Byte :=
  if 1 ≤ b.toNat then some (BitVec.ofNat 8 (b.toNat % 10)) else unsettledDigit policy zeroIt

/-- The bytes SAVE stores: V0..Vx (R255). -/
def savedBytes (v : Vector Byte 16) (x : Reg) : List Byte := v.toList.take (x.val + 1)

/-- The registers after LOAD: V0..Vx from memory at I (R256). -/
def loadedRegs (m : Memory) (i : Word) (x : Reg) (v : Vector Byte 16) : Vector Byte 16 :=
  Vector.ofFn (fun k : Fin 16 => if k ≤ x then Memory.read m (i.toNat + k.val) else v[k])

/-- I after SAVE (R255). -/
def savedIndex (option : SaveIncrementI) (i : Word) (x : Reg) : Word :=
  match option with
  | .increment => masked12 (i.toNat + x.val + 1)
  | .keep => i

/-- any_key_pressed: the least key that is down (60_exceptions.md R381). -/
def firstKey (keys : BitVec 16) : Option Reg := (List.finRange 16).find? (fun k => keys.getLsbD k.val)

/-- The sprite rows DRAW reads: M[I], ..., M[I + n - 1], visible or not (44_display.md R292, R294). -/
def spriteRows (m : Memory) (i : Word) (n : Nat) : List Byte := (indexSpan i n).map (Memory.read m)

end Sys2Proof.Machine
end

