-- ==== Sys2Proof/Machine/ControlFlow.lean ====
section
/-! DEFINITION. Control flow (41_control_flow.md). In every meaning `s.pc` is the post-fetch PC (R37). -/
namespace Sys2Proof.Machine

/-- RETURN (R161). -/
def execRet (s : State) : Host.Outcome State Fault Refusal :=
  .next (if h : 0 < s.sp.val then (s.drop h).setPc (s.top h) else s.raise .stackUnderflow (encode .ret) none)

/-- JUMP (R162). -/
def execJump (nnn : Word) (s : State) : Host.Outcome State Fault Refusal := .next (s.setPc nnn)

/-- CALL (R163): the pushed address is the post-fetch PC. -/
def execCall (nnn : Word) (s : State) : Host.Outcome State Fault Refusal :=
  .next (if h : s.sp.val < 16 then (s.push s.pc h).setPc nnn else s.raise .stackOverflow (encode (.call nnn)) none)

/-- SKIP_EQ_IMM (R164). -/
def execSkipEqImm (x : Reg) (nn : Byte) (s : State) : Host.Outcome State Fault Refusal :=
  .next (s.skipIf (s.reg x == nn))

/-- SKIP_NE_IMM (R165). -/
def execSkipNeImm (x : Reg) (nn : Byte) (s : State) : Host.Outcome State Fault Refusal :=
  .next (s.skipIf (s.reg x != nn))

/-- SKIP_EQ_REG (R166). -/
def execSkipEqReg (x y : Reg) (s : State) : Host.Outcome State Fault Refusal :=
  .next (s.skipIf (s.reg x == s.reg y))

/-- SKIP_NE_REG (R167). -/
def execSkipNeReg (x y : Reg) (s : State) : Host.Outcome State Fault Refusal :=
  .next (s.skipIf (s.reg x != s.reg y))

/-- JUMP_OFFSET (R168). -/
def execJumpOffset (nnn : Word) (s : State) : Host.Outcome State Fault Refusal :=
  .next (s.setPc (jumpOffsetTarget Config.current.jumpOffsetMode nnn s.v))

end Sys2Proof.Machine
end

