-- ==== Sys2Proof/Machine/Flags.lean ====
section
/-! DEFINITION. Every flag computation: VF is the only flag (10_state.md R41), written 0 or 1 (42_register_alu.md
R200) from the operands as they were before the instruction (R116). -/
namespace Sys2Proof.Machine

/-- A flag as the byte VF gets (R200). -/
def flagByte (f : Bool) : Byte := if f then 1 else 0

/-- ADD_REG: the sum is above 255 (R208). -/
def carryFlag (a b : Byte) : Bool := decide (255 < a.toNat + b.toNat)

/-- SUB with (Vx, Vy) and SUBN with (Vy, Vx): strictly greater (R209, R211). -/
def greaterFlag (a b : Byte) : Bool := decide (b.toNat < a.toNat)

/-- SHIFT_RIGHT: bit 0 of the shifted value (R210). -/
def lowBitFlag (b : Byte) : Bool := b.getLsbD 0

/-- SHIFT_LEFT: bit 7 of the shifted value (R212). -/
def highBitFlag (b : Byte) : Bool := b.getLsbD 7

/-- ADD_INDEX: the sum is above 0xFFF (43_index_memory.md R252). -/
def indexOverflowFlag (i : Word) (b : Byte) : Bool := decide (0xFFF < i.toNat + b.toNat)

/-- What VF ends with when it is the destination itself (R201); `takeFlag` is the cycle's draw under EITHER. -/
def aliasValue (policy : VfAliasPolicy) (takeFlag : Bool) (r f : Byte) : Byte :=
  match policy with
  | .flagLast => f
  | .resultLast => r
  | .either => if takeFlag then f else r

/-- WriteResultFlag(x, r, f) (R201). -/
def writeResultFlag (policy : VfAliasPolicy) (takeFlag : Bool) (v : Vector Byte 16) (x : Reg) (r : Byte) (f : Bool) :
    Vector Byte 16 :=
  if x = VF then v.set VF (aliasValue policy takeFlag r (flagByte f))
  else (v.set x r).set VF (flagByte f)

end Sys2Proof.Machine
end

