-- ==== Sys2Proof/Machine/Framebuffer.lean ====
section
/-! DEFINITION. The framebuffer controller: pixel addressing (10_state.md R47 to R56) and XOR drawing
(44_display.md R292, R293). -/
namespace Sys2Proof.Machine

/-- The byte that holds pixel (x, y): floor((y*64 + x) / 8) (R48). -/
def pixelByte (x : Fin 64) (y : Fin 32) : Fin 256 := ⟨(y.val * 64 + x.val) / 8, by omega⟩

/-- The bit of that byte: 7 - ((y*64 + x) mod 8), so the leftmost pixel is the most significant (R48). -/
def pixelBit (x : Fin 64) (y : Fin 32) : Nat := 7 - (y.val * 64 + x.val) % 8

/-- ReadPixel(x, y) (R55); true is 1, white (R49). -/
def Framebuffer.readPixel (fb : Framebuffer) (x : Fin 64) (y : Fin 32) : Bool :=
  fb[pixelByte x y].getLsbD (pixelBit x y)

/-- WritePixel(x, y, p): the other bits of the byte are untouched (R56). -/
def Framebuffer.writePixel (fb : Framebuffer) (x : Fin 64) (y : Fin 32) (p : Bool) : Framebuffer :=
  fb.set (pixelByte x y) ((fb[pixelByte x y] &&& ~~~(1#8 <<< pixelBit x y)) ||| ((if p then 1#8 else 0#8) <<< pixelBit x y))

/-- Fill(color): every byte 0xFF for white, 0x00 for black (R50). -/
def Framebuffer.fill (white : Bool) : Framebuffer := Vector.replicate 256 (if white then 0xFF else 0x00)

/-- The framebuffer and the collision flag while a sprite is drawn. -/
abbrev Canvas := Framebuffer × Bool

/-- One bit of one sprite row (R292): clipped, not wrapped, at the screen's edges (R293). Column 0 is the most
significant bit. -/
def drawPixel (x0 y0 r : Nat) (row : Byte) (canvas : Canvas) (c : Nat) : Canvas :=
  if h : x0 + c < 64 ∧ y0 + r < 32 then
    let s := row.getLsbD (7 - c)
    let cur := canvas.1.readPixel ⟨x0 + c, h.1⟩ ⟨y0 + r, h.2⟩
    (canvas.1.writePixel ⟨x0 + c, h.1⟩ ⟨y0 + r, h.2⟩ (s ^^ cur), canvas.2 || (s && cur))
  else canvas

/-- One sprite row, columns 0 to 7 (R292). -/
def drawRow (x0 y0 r : Nat) (row : Byte) (canvas : Canvas) : Canvas :=
  (List.range 8).foldl (drawPixel x0 y0 r row) canvas

/-- The sprite rows from row r on (R292). -/
def drawRows (x0 y0 : Nat) : Nat → List Byte → Canvas → Canvas
  | _, [], canvas => canvas
  | r, row :: rows, canvas => drawRows x0 y0 (r + 1) rows (drawRow x0 y0 r row canvas)

end Sys2Proof.Machine
end

