-- ==== Sys2Proof/Machine/Display.lean ====
section
/-! DEFINITION. Display instructions (44_display.md). -/
namespace Sys2Proof.Machine

/-- CLEAR (R291). -/
def execClear (s : State) : Host.Outcome State Fault Refusal := .next (s.setFb (Framebuffer.fill false))

/-- The framebuffer and collision flag DRAW ends with (R292): the origin is reduced mod 64 and mod 32 (C3). -/
def drawnCanvas (x y : Reg) (n : Nat) (s : State) : Canvas :=
  drawRows ((s.reg x).toNat % 64) ((s.reg y).toNat % 32) 0 (spriteRows s.mem s.i n) (s.fb, false)

/-- DRAW (R292 to R295): every sprite byte is checked, VF is written last. -/
def execDraw (x y : Reg) (n : Nat) (s : State) : Host.Outcome State Fault Refusal :=
  .next (s.guarded readCheck (indexSpan s.i n) (encode (.draw x y n))
    ((s.setFb (drawnCanvas x y n s).1).setReg VF (flagByte (drawnCanvas x y n s).2)))

end Sys2Proof.Machine
end

