-- ==== Sys2Proof/Machine/IndexMemory.lean ====
section
/-! DEFINITION. Index register and memory instructions (43_index_memory.md). -/
namespace Sys2Proof.Machine

/-- SET_INDEX (R251). -/
def execSetIndex (nnn : Word) (s : State) : Host.Outcome State Fault Refusal := .next (s.setI nnn)

/-- VF after ADD_INDEX (R252, D10). -/
def State.setIndexFlag (s : State) (option : AddIndexVf) (f : Bool) : State :=
  match option with
  | .set => s.setReg VF (flagByte f)
  | .never => s

/-- ADD_INDEX (R252). -/
def execAddIndex (x : Reg) (s : State) : Host.Outcome State Fault Refusal :=
  .next ((s.setI (masked12 (s.i.toNat + (s.reg x).toNat))).setIndexFlag Config.current.addIndexVf
    (indexOverflowFlag s.i (s.reg x)))

/-- POINT_CHAR (R253). -/
def execPointChar (x : Reg) (s : State) : Host.Outcome State Fault Refusal := .next (s.setI (charAddress (s.reg x)))

/-- Memory after BCD of a byte (R254). -/
def bcdMemory (policy : BcdUnsettled) (input : CycleInput) (m : Memory) (i : Word) (b : Byte) : Memory :=
  Memory.writeIf
    (Memory.writeIf (Memory.writeIf m i.toNat (hundredsDigit b)) (i.toNat + 1) (tensDigit policy input.bcdZeroTens b))
    (i.toNat + 2) (onesDigit policy input.bcdZeroOnes b)

/-- BCD (R254): all three addresses are checked, even of a byte that is not written (D17). -/
def execBcd (x : Reg) (s : State) : Host.Outcome State Fault Refusal :=
  .next (s.guarded writeCheck (indexSpan s.i 3) (encode (.bcd x))
    (s.setMem (bcdMemory Config.current.bcdUnsettled s.input s.mem s.i (s.reg x))))

/-- SAVE (R255). -/
def execSave (x : Reg) (s : State) : Host.Outcome State Fault Refusal :=
  .next (s.guarded writeCheck (indexSpan s.i (x.val + 1)) (encode (.save x))
    ((s.setMem (Memory.writeBytes s.mem s.i.toNat (savedBytes s.v x))).setI
      (savedIndex Config.current.saveIncrementI s.i x)))

/-- LOAD (R256): I is never changed. -/
def execLoad (x : Reg) (s : State) : Host.Outcome State Fault Refusal :=
  .next (s.guarded readCheck (indexSpan s.i (x.val + 1)) (encode (.load x)) (s.setRegs (loadedRegs s.mem s.i x s.v)))

end Sys2Proof.Machine
end

