-- ==== Sys2Proof/Machine/Timers.lean ====
section
/-! DEFINITION. The two deadline timers (60_exceptions.md R370 to R374). A read changes no timer (R374). -/
namespace Sys2Proof.Machine

/-- Milliseconds from the time stamp to `now`, clamped at 0; both are signed, the difference is exact (R370,
R372, R373). -/
def Timer.elapsed (t : Timer) (now : Time) : Int := max 0 (now.toInt - t.ts.toInt)

/-- 60 Hz ticks: floor(60 * elapsed / 1000) (R370). -/
def Timer.ticks (t : Timer) (now : Time) : Int := 60 * t.elapsed now / 1000

/-- TimerRead(T, now) (R370). -/
def Timer.read (t : Timer) (now : Time) : Byte :=
  if t.ts = 0 then 0 else BitVec.ofInt 8 (max 0 ((t.val.toNat : Int) - t.ticks now))

/-- TimerWrite(T, b, now): T <- (now, b) (R371). -/
def Timer.load (b : Byte) (now : Time) : Timer := ⟨now, b⟩

end Sys2Proof.Machine
end

