-- ==== Sys2Proof/Machine/KeysTimers.lean ====
section
/-! DEFINITION. Keyboard and timer instructions (45_keys_timers.md). -/
namespace Sys2Proof.Machine

/-- The key index of Vx, or KEY_RANGE above 15 (R321, R322, D14); then a skip on the key's state. -/
def State.skipOnKey (s : State) (x : Reg) (down : Bool) (word : Word) : State :=
  if 15 < (s.reg x).toNat then s.raise .keyRange word none
  else s.skipIf (s.keys.getLsbD (s.reg x).toNat == down)

/-- SKIP_PRESSED (R321). -/
def execSkipPressed (x : Reg) (s : State) : Host.Outcome State Fault Refusal :=
  .next (s.skipOnKey x true (encode (.skipPressed x)))

/-- SKIP_NOT_PRESSED (R322). -/
def execSkipNotPressed (x : Reg) (s : State) : Host.Outcome State Fault Refusal :=
  .next (s.skipOnKey x false (encode (.skipNotPressed x)))

/-- READ_DELAY (R323): the read changes no timer (60_exceptions.md R374). -/
def execReadDelay (x : Reg) (s : State) : Host.Outcome State Fault Refusal :=
  .next (s.setReg x (s.dt.read s.input.now))

/-- WAIT_KEY (R324): the lowest key that is down, else back onto this instruction. -/
def execWaitKey (x : Reg) (s : State) : Host.Outcome State Fault Refusal :=
  .next (match firstKey s.keys with
    | some k => s.setReg x (BitVec.ofNat 8 k.val)
    | none => s.setPc (s.pc - 2))

/-- SET_DELAY (R325). -/
def execSetDelay (x : Reg) (s : State) : Host.Outcome State Fault Refusal :=
  .next (s.setDt (Timer.load (s.reg x) s.input.now))

/-- SET_SOUND (R326): SND does not change. -/
def execSetSound (x : Reg) (s : State) : Host.Outcome State Fault Refusal :=
  .next (s.setSt (Timer.load (s.reg x) s.input.now))

end Sys2Proof.Machine
end

