-- ==== Sys2Proof/Machine/RegisterAlu.lean ====
section
/-! DEFINITION. Register and arithmetic instructions (42_register_alu.md). None can fault. -/
namespace Sys2Proof.Machine

/-- The write of an 8-bit result and a flag, under the configuration's policy and the cycle's draw (R201). -/
def State.setResultFlag (s : State) (x : Reg) (r : Byte) (f : Bool) : State :=
  s.setRegs (writeResultFlag Config.current.vfAliasPolicy s.input.vfTakesFlag s.v x r f)

/-- SET_IMM (R202). -/
def execSetImm (x : Reg) (nn : Byte) (s : State) : Host.Outcome State Fault Refusal := .next (s.setReg x nn)

/-- ADD_IMM (R203): no flag. -/
def execAddImm (x : Reg) (nn : Byte) (s : State) : Host.Outcome State Fault Refusal :=
  .next (s.setReg x (s.reg x + nn))

/-- COPY (R204). -/
def execCopy (x y : Reg) (s : State) : Host.Outcome State Fault Refusal := .next (s.setReg x (s.reg y))

/-- OR (R205): VF is not a side effect. -/
def execOrReg (x y : Reg) (s : State) : Host.Outcome State Fault Refusal := .next (s.setReg x (s.reg x ||| s.reg y))

/-- AND (R206). -/
def execAndReg (x y : Reg) (s : State) : Host.Outcome State Fault Refusal := .next (s.setReg x (s.reg x &&& s.reg y))

/-- XOR (R207). -/
def execXorReg (x y : Reg) (s : State) : Host.Outcome State Fault Refusal := .next (s.setReg x (s.reg x ^^^ s.reg y))

/-- ADD_REG (R208). -/
def execAddReg (x y : Reg) (s : State) : Host.Outcome State Fault Refusal :=
  .next (s.setResultFlag x (s.reg x + s.reg y) (carryFlag (s.reg x) (s.reg y)))

/-- SUB (R209). -/
def execSub (x y : Reg) (s : State) : Host.Outcome State Fault Refusal :=
  .next (s.setResultFlag x (s.reg x - s.reg y) (greaterFlag (s.reg x) (s.reg y)))

/-- SHIFT_RIGHT (R210). -/
def execShiftRight (x y : Reg) (s : State) : Host.Outcome State Fault Refusal :=
  let b := shiftValue Config.current.shiftSource (s.reg x) (s.reg y)
  .next (s.setResultFlag x (b >>> 1) (lowBitFlag b))

/-- SUBN (R211). -/
def execSubn (x y : Reg) (s : State) : Host.Outcome State Fault Refusal :=
  .next (s.setResultFlag x (s.reg y - s.reg x) (greaterFlag (s.reg y) (s.reg x)))

/-- SHIFT_LEFT (R212). -/
def execShiftLeft (x y : Reg) (s : State) : Host.Outcome State Fault Refusal :=
  let b := shiftValue Config.current.shiftSource (s.reg x) (s.reg y)
  .next (s.setResultFlag x (b <<< 1) (highBitFlag b))

/-- RAND (R213): `rnd` is the cycle's draw (40_cycle.md R146). -/
def execRand (x : Reg) (nn : Byte) (s : State) : Host.Outcome State Fault Refusal :=
  .next (s.setReg x (s.input.rnd &&& nn))

end Sys2Proof.Machine
end

