-- ==== Sys2Proof/Machine/Cycle.lean ====
section
/-! DEFINITION. The fetch-decode-execute cycle (40_cycle.md). -/
namespace Sys2Proof.Machine

/-- MemRead(PC, 2): big-endian, at any parity of PC (R141, 20_memory.md R84, R87). -/
def State.fetchWord (s : State) : Word :=
  wordOfBytes (Memory.read s.mem s.pc.toNat) (Memory.read s.mem (s.pc.toNat + 1))

/-- CYCLE(now, rnd) (R145): a halted core has no step (R148); fetch, PC + 2 without a mask (R142), decode,
execute. -/
def cycle (input : CycleInput) (s : State) : Host.Outcome State Fault Refusal :=
  match s.halt with
  | some r => .fault (.halted r)
  | none =>
    if topAddress < s.pc.toNat + 1 then
      .next ((s.setInput input).takeFault ⟨.fetchRange, s.pc, none, some s.pc.toNat⟩)
    else
      match decodeWord s.fetchWord with
      | some i => exec i ((s.setInput input).setPc (s.pc + 2))
      | none => .next (((s.setInput input).setPc (s.pc + 2)).raise .invalidOpcode s.fetchWord none)

end Sys2Proof.Machine
end

