-- ==== Sys2Proof/Machine/HostPort.lean ====
section
/-! DEFINITION. The block interface (00_scope.md R7): the host's operations between cycles (60_exceptions.md R385,
R386) and RESET (70_reset_and_hazards.md R400, R401). CYCLE is Machine/Cycle.lean. -/
namespace Sys2Proof.Machine

/-- READ_PIXEL(x, y): a query (R55). -/
def readPixelPort (s : State) (x : Fin 64) (y : Fin 32) : Bool := s.fb.readPixel x y

/-- SOUND_PLAYING (10_state.md R62). -/
def soundPlaying (s : State) : Bool := s.snd

/-- HALTED: whether a fault has halted the core, with its record (R353). -/
def halted (s : State) : Option HaltRecord := s.halt

/-- SND after REFRESH_BEEPER(now): whether the sound timer still counts (R375). -/
def beeperOn (st : Timer) (now : Time) : Bool := decide (0 < (st.read now).toNat)

/-- KEY after a host operation: SET_KEYS replaces all sixteen bits (R380). -/
def keysAfter (k : BitVec 16) : HostOp → BitVec 16
  | .setKeys k' => k'
  | .readPixel _ _ => k
  | .refreshBeeper _ => k

/-- SND after a host operation (R375). -/
def sndAfter (st : Timer) (b : Bool) : HostOp → Bool
  | .setKeys _ => b
  | .readPixel _ _ => b
  | .refreshBeeper now => beeperOn st now

/-- One host operation (R385). -/
def State.hostOp (s : State) (op : HostOp) : State := (s.setKeys (keysAfter s.keys op)).setSnd (sndAfter s.st s.snd op)

/-- Any number of host operations, in the order given (R385). -/
def State.hostOps (s : State) (ops : List HostOp) : State :=
  (s.setKeys (ops.foldl keysAfter s.keys)).setSnd (ops.foldl (sndAfter s.st) s.snd)

/-- The host's next turn: one already decided, else a free one (logs 1 and 2). -/
def State.nextTurn (s : State) : HostTurn :=
  match s.pending with
  | t :: _ => t
  | [] => Config.turn s.cycles

/-- The host's turn is taken up: the free value's index moves on. -/
def State.takeTurn (s : State) : State := { s with cycles := s.cycles + 1, pending := s.pending.tail }

/-- RESET(rom) (R400): the reset state with the ROM at 0x200; an image above 3584 bytes is refused (R401). -/
def resetRom (rom : List Byte) : Host.Outcome State Fault Refusal :=
  if rom.length ≤ maxRom then .next (State.reset.setMem (Memory.writeBytes State.reset.mem programStart rom))
  else .refused (.romTooLong rom.length)

/-- An instruction word placed where the next cycle fetches, on a core that is not halted (log 7). -/
def State.placeWord (s : State) (w : Word) : State :=
  { s with mem := Memory.writeBytes s.mem s.pc.toNat (bytesOfWord w), halt := none }

end Sys2Proof.Machine
end

