-- ==== Sys2Proof/Machine/Step.lean ====
section
/-! DEFINITION. One step of the model: the host's operations since the last cycle (60_exceptions.md R385), then one
CYCLE with the host's inputs (40_cycle.md R140). -/
namespace Sys2Proof.Machine

/-- The state the cycle of a step starts from. -/
def State.beginTurn (s : State) : State := s.takeTurn.hostOps s.nextTurn.before

def step (s : State) : Host.Outcome State Fault Refusal := cycle s.nextTurn.input s.beginTurn

/-- `s` with the instruction whose first `nbits` bits are `w` where `step` fetches next (log 7). -/
def State.withFetchWord (s : State) (nbits w : Nat) : State := s.placeWord (BitVec.ofNat 16 (w % 2 ^ nbits))

end Sys2Proof.Machine
end

