-- ==== Sys2Proof/Safety.lean ====
section
/-! DEFINITION. The terms claims use: a running core, the invariant of every reachable state, the parts of the
state an instruction may change, and the spec's words for sprites, faults and unsettled values. -/
namespace Sys2Proof.Machine

/-! ## Running, halted, idle -/

/-- The state is a safe one: no fault has halted the core (R148, R416). -/
abbrev State.Running (s : State) : Prop := s.halt = none

/-- The conventional end of a run: the next instruction is a JUMP to its own address (R416, D25). -/
def State.AtSelfJump (s : State) : Prop :=
  s.Running ∧ s.pc.toNat + 1 ≤ 0xFFF ∧ decodeWord s.fetchWord = some (.jump s.pc)

/-- The state a step hands to the execute stage: the host's turn is taken, the draws are loaded, PC is advanced
(R385, R146, R142). -/
def State.postFetch (s : State) : State :=
  { s with
    pc := s.pc + 2
    input := s.nextTurn.input
    keys := s.nextTurn.before.foldl keysAfter s.keys
    snd := s.nextTurn.before.foldl (sndAfter s.st) s.snd
    cycles := s.cycles + 1
    pending := s.pending.tail }

/-- The state after instruction `i`, whose post-fetch state is `s`, faults (R353, R354). -/
def State.haltedBy (s : State) (i : Instr) (code : FaultCode) (addr : Option Nat) : State :=
  { s with halt := some ⟨code, s.pc - 2, some (encode i), addr⟩ }

/-- The faults an instruction's own checks can raise (R352). -/
def raises : Instr → List FaultCode
  | .clear => []
  | .ret => [.stackUnderflow]
  | .jump _ => []
  | .call _ => [.stackOverflow]
  | .skipEqImm _ _ => []
  | .skipNeImm _ _ => []
  | .skipEqReg _ _ => []
  | .setImm _ _ => []
  | .addImm _ _ => []
  | .copy _ _ => []
  | .orReg _ _ => []
  | .andReg _ _ => []
  | .xorReg _ _ => []
  | .addReg _ _ => []
  | .sub _ _ => []
  | .shiftRight _ _ => []
  | .subn _ _ => []
  | .shiftLeft _ _ => []
  | .skipNeReg _ _ => []
  | .setIndex _ => []
  | .jumpOffset _ => []
  | .rand _ _ => []
  | .draw _ _ _ => [.memRange]
  | .skipPressed _ => [.keyRange]
  | .skipNotPressed _ => [.keyRange]
  | .readDelay _ => []
  | .waitKey _ => []
  | .setDelay _ => []
  | .setSound _ => []
  | .addIndex _ => []
  | .pointChar _ => []
  | .bcd _ => [.memRange, .fontWrite]
  | .save _ => [.memRange, .fontWrite]
  | .load _ => [.memRange]

/-- The faults whose record holds a data address (R351). -/
def FaultCode.recordsDataAddress : FaultCode → Bool
  | .invalidOpcode => false
  | .fetchRange => false
  | .memRange => true
  | .stackOverflow => false
  | .stackUnderflow => false
  | .keyRange => false
  | .fontWrite => true

/-- The word that stands at an address, high byte first (R86). -/
def wordAt (m : Memory) (a : Nat) : Word := wordOfBytes (Memory.read m a) (Memory.read m (a + 1))

/-- A halt record says what happened (R351, R353, R354): the word is the one at the recorded pc, PC is that pc
plus 2, and the fault is one that word can raise; for FETCH_RANGE there is no word and PC was not advanced. -/
def HaltRecord.Truthful (r : HaltRecord) (s : State) : Prop :=
  if r.code = .fetchRange then
    r.word = none ∧ r.addr = some r.pc.toNat ∧ s.pc = r.pc ∧ 0xFFF < r.pc.toNat + 1
  else
    r.word = some (wordAt s.mem r.pc.toNat) ∧ s.pc = r.pc + 2 ∧ r.pc.toNat + 1 ≤ 0xFFF ∧
    r.addr.isSome = r.code.recordsDataAddress ∧
    if r.code = .invalidOpcode then decodeWord (wordAt s.mem r.pc.toNat) = none
    else ∃ i, decodeWord (wordAt s.mem r.pc.toNat) = some i ∧ r.code ∈ raises i

/-! ## The invariant -/

/-- What holds of every state a run reaches. -/
structure State.Inv (s : State) : Prop where
  /-- Memory is in canonical form. -/
  memory : Memory.wf s.mem
  /-- The font region holds FONT: no cell of it is listed (R83, R90). -/
  font : ∀ c ∈ s.mem, ¬ InFont c.1
  /-- Bits 15..12 of I are 0 (R36). -/
  index : s.i.toNat ≤ 0xFFF
  /-- PC is at most 0x1002 (R39). -/
  pc : s.pc.toNat ≤ 0x1002
  /-- A return address is at most 0x1000 (R39, R163). -/
  returns : ∀ k : Fin 16, (s.stack[k]).toNat ≤ 0x1000
  /-- A halt record is true. -/
  halt : ∀ r, s.halt = some r → r.Truthful s

/-- The states of every run: RESET of any ROM, then cycles with any inputs and host operations in any number
and order (R385, R400). -/
inductive Reachable : State → Prop where
  | reset {rom : List Byte} {s : State} (h : resetRom rom = .next s) : Reachable s
  | host {s : State} (op : HostOp) (h : Reachable s) : Reachable (s.hostOp op)
  | cycle {s t : State} (input : CycleInput) (h : Reachable s) (hc : cycle input s = .next t) : Reachable t

/-! ## What an instruction may change -/

/-- The parts of the state. -/
inductive Part where
  | memory
  | stack
  | pc
  | index
  | registers
  | framebuffer
  | sound
  | keys
  | delayTimer
  | soundTimer
  | halt
  | hostInputs
deriving DecidableEq, Repr

/-- The part is the same in both states; of memory, every byte reads the same. -/
def Part.Same : Part → State → State → Prop
  | .memory, s, t => ∀ a, Memory.read t.mem a = Memory.read s.mem a
  | .stack, s, t => t.stack = s.stack ∧ t.sp = s.sp
  | .pc, s, t => t.pc = s.pc
  | .index, s, t => t.i = s.i
  | .registers, s, t => ∀ r : Reg, t.reg r = s.reg r
  | .framebuffer, s, t => ∀ px py, t.fb.readPixel px py = s.fb.readPixel px py
  | .sound, s, t => t.snd = s.snd
  | .keys, s, t => t.keys = s.keys
  | .delayTimer, s, t => t.dt = s.dt
  | .soundTimer, s, t => t.st = s.st
  | .halt, s, t => t.halt = s.halt
  | .hostInputs, s, t => t.input = s.input ∧ t.cycles = s.cycles ∧ t.pending = s.pending

/-- Every part but the named ones is the same. -/
def OnlyChanges (parts : List Part) (s t : State) : Prop := ∀ p : Part, p ∉ parts → p.Same s t

/-- Every register but the named ones is the same. -/
def OnlyRegs (xs : List Reg) (s t : State) : Prop := ∀ r : Reg, r ∉ xs → t.reg r = s.reg r

/-- Every byte of memory outside the `n` bytes at `a` reads the same. -/
def OnlyBytes (a n : Nat) (s t : State) : Prop :=
  ∀ b, ¬ (a ≤ b ∧ b < a + n) → Memory.read t.mem b = Memory.read s.mem b

/-- The instruction writes VF as a side effect (R41). -/
def setsFlag : Instr → Prop
  | .clear => False
  | .ret => False
  | .jump _ => False
  | .call _ => False
  | .skipEqImm _ _ => False
  | .skipNeImm _ _ => False
  | .skipEqReg _ _ => False
  | .setImm _ _ => False
  | .addImm _ _ => False
  | .copy _ _ => False
  | .orReg _ _ => False
  | .andReg _ _ => False
  | .xorReg _ _ => False
  | .addReg _ _ => True
  | .sub _ _ => True
  | .shiftRight _ _ => True
  | .subn _ _ => True
  | .shiftLeft _ _ => True
  | .skipNeReg _ _ => False
  | .setIndex _ => False
  | .jumpOffset _ => False
  | .rand _ _ => False
  | .draw _ _ _ => True
  | .skipPressed _ => False
  | .skipNotPressed _ => False
  | .readDelay _ => False
  | .waitKey _ => False
  | .setDelay _ => False
  | .setSound _ => False
  | .addIndex _ => Config.current.addIndexVf = .set
  | .pointChar _ => False
  | .bcd _ => False
  | .save _ => False
  | .load _ => False

/-- The instruction names the register as a destination, or LOAD's range includes it (R34, R41). -/
def namesDestination (r : Reg) : Instr → Prop
  | .clear => False
  | .ret => False
  | .jump _ => False
  | .call _ => False
  | .skipEqImm _ _ => False
  | .skipNeImm _ _ => False
  | .skipEqReg _ _ => False
  | .setImm x _ => x = r
  | .addImm x _ => x = r
  | .copy x _ => x = r
  | .orReg x _ => x = r
  | .andReg x _ => x = r
  | .xorReg x _ => x = r
  | .addReg x _ => x = r
  | .sub x _ => x = r
  | .shiftRight x _ => x = r
  | .subn x _ => x = r
  | .shiftLeft x _ => x = r
  | .skipNeReg _ _ => False
  | .setIndex _ => False
  | .jumpOffset _ => False
  | .rand x _ => x = r
  | .draw _ _ _ => False
  | .skipPressed _ => False
  | .skipNotPressed _ => False
  | .readDelay x => x = r
  | .waitKey x => x = r
  | .setDelay _ => False
  | .setSound _ => False
  | .addIndex _ => False
  | .pointChar _ => False
  | .bcd _ => False
  | .save _ => False
  | .load x => r ≤ x

/-! ## The spec's words for results -/

/-- The encoding line of an instruction's rule: the number is its word, both ways (30_encoding.md R120). -/
def IsWordOf (w : Nat) (i : Instr) : Prop := decodeWord (BitVec.ofNat 16 w) = some i ∧ (encode i).toNat = w

/-- What WriteResultFlag(x, r, f) leaves (R201): with VF as the destination, the policy decides between the flag
and the result. -/
def ResultAndFlag (x : Reg) (r f : Nat) (t : State) : Prop :=
  (x ≠ VF → (t.reg x).toNat = r ∧ (t.reg VF).toNat = f) ∧
  (x = VF →
    (Config.current.vfAliasPolicy = .flagLast → (t.reg VF).toNat = f) ∧
    (Config.current.vfAliasPolicy = .resultLast → (t.reg VF).toNat = r) ∧
    (Config.current.vfAliasPolicy = .either → (t.reg VF).toNat = f ∨ (t.reg VF).toNat = r))

/-- What BCD leaves of a byte whose digit is not settled (R254). -/
def UnsettledByte (old new : Byte) : Prop :=
  (Config.current.bcdUnsettled = .keep → new = old) ∧
  (Config.current.bcdUnsettled = .zero → new = 0) ∧
  (Config.current.bcdUnsettled = .either → new = old ∨ new = 0)

/-- A shift's source value by SHIFT_SOURCE (R210, R212). -/
def IsShiftValue (x y : Reg) (s : State) (b : Byte) : Prop :=
  (Config.current.shiftSource = .vy → b = s.reg y) ∧ (Config.current.shiftSource = .vx → b = s.reg x)

/-- `a` is the lowest of the `n` addresses from `first` that is bad (R250, D17). -/
def LowestBad (bad : Nat → Prop) (first n a : Nat) : Prop :=
  first ≤ a ∧ a < first + n ∧ bad a ∧ ∀ b, first ≤ b → b < a → ¬ bad b

/-- A write to this address faults (R83). -/
def BadWrite (a : Nat) : Prop := 0xFFF < a ∨ InFont a

/-- A read of this address faults (R82). -/
def BadRead (a : Nat) : Prop := 0xFFF < a

/-- The fault of a bad write (R83). -/
def badWriteCode (a : Nat) : FaultCode := if 0xFFF < a then .memRange else .fontWrite

/-- Whether DRAW's sprite has a 1-bit on pixel (px, py): its origin is (Vx mod 64, Vy mod 32), row r is the byte
at I + r, and a row's bit 7 is its leftmost column (R292). -/
def spriteBit (s : State) (x y : Reg) (n : Nat) (px : Fin 64) (py : Fin 32) : Bool :=
  let x0 := (s.reg x).toNat % 64
  let y0 := (s.reg y).toNat % 32
  decide (x0 ≤ px.val ∧ px.val < x0 + 8 ∧ y0 ≤ py.val ∧ py.val < y0 + n) &&
    (Memory.read s.mem (s.i.toNat + (py.val - y0))).getLsbD (7 - (px.val - x0))

/-- Some visible 1-bit of the sprite lies on a pixel with the given value. -/
def SpriteMeets (s : State) (x y : Reg) (n : Nat) (p : Bool) : Prop :=
  ∃ px py, spriteBit s x y n px py = true ∧ s.fb.readPixel px py = p

end Sys2Proof.Machine
end

