-- ==== Sys2Proof/Certificates/Slice0/Obligations.lean ====
section
/-! DEFINITION. The statements for the provers. Each docstring names the rules of spec/ it rests on; where a clause
rests on one of the spec's own decisions (D<n> of 92_eei_decisions.md) or on an entry of the model's log, it says
so. -/

open Sys2Proof Sys2Proof.Machine

/-! ## Encoding -/

/-- Decoding the word, and the bytes, of a well-formed instruction gives it back (30_encoding.md, sections 2 to 4;
that `n` and `nnn` are checked by `wellFormed` is log 10). -/
def Obligations.DecodeEncodeRoundTrip : Prop :=
  ∀ (i : Instr) (rest : List Byte), i.wellFormed = true →
    decodeWord (encode i) = some i ∧ decodeBytes (encodeBytes i ++ rest) = .ok (i, rest)

/-- A word has one meaning: it is the encoding of what it decodes to, and that is well formed. -/
def Obligations.EncodeOfDecodedWord : Prop :=
  ∀ (w : Word) (i : Instr), decodeWord w = some i → encode i = w ∧ i.wellFormed = true

/-- R118: a word decodes to a row of R120 exactly when it matches the row, to INVALID when it matches none, and no
two rows overlap. -/
def Obligations.DecodeFollowsOpcodeTable : Prop :=
  (∀ (w : Word) (k : Fin 34),
    (∃ i, decodeWord w = some i ∧ i.rowIndex = k) ↔ w &&& (opcodeRow k).mask = (opcodeRow k).pattern) ∧
  (∀ w : Word, decodeWord w = none ↔ ∀ k : Fin 34, w &&& (opcodeRow k).mask ≠ (opcodeRow k).pattern) ∧
  (∀ (w : Word) (j k : Fin 34), w &&& (opcodeRow j).mask = (opcodeRow j).pattern →
    w &&& (opcodeRow k).mask = (opcodeRow k).pattern → j = k)

/-- 43954 of the 65536 words are valid and 21582 are INVALID (30_encoding.md, the derived count of R121). -/
def Obligations.ValidWordCount : Prop :=
  (List.range 65536).countP (fun w => (decodeWord (BitVec.ofNat 16 w)).isSome) = 43954 ∧
  (List.range 65536).countP (fun w => (decodeWord (BitVec.ofNat 16 w)).isNone) = 21582

/-- A few words written out from the patterns of 30_encoding.md and the programs of 95_test_vectors.md. -/
def Obligations.SpecWordsDecode : Prop :=
  decodeWord 0x00E0#16 = some .clear ∧ decodeWord 0x2300#16 = some (.call 0x300#16) ∧
  decodeWord 0x71FF#16 = some (.addImm 1 0xFF#8) ∧ decodeWord 0x8F14#16 = some (.addReg 15 1) ∧
  decodeWord 0xD012#16 = some (.draw 0 1 2) ∧ decodeWord 0xE59E#16 = some (.skipPressed 5) ∧
  decodeWord 0xF265#16 = some (.load 2) ∧ decodeWord 0x5121#16 = none ∧ decodeWord 0x0123#16 = none

/-! ## The cycle -/

/-- When the two bytes at PC decode to an instruction, a step of a running core is that instruction's execute
stage from the post-fetch state: PC + 2 without a 12-bit mask (D4), the cycle's draws loaded, the host's
operations done (40_cycle.md; 60_exceptions.md section 5; logs 1 and 2). -/
def Obligations.StepRunsDecodedInstruction : Prop :=
  ∀ (s : State) (i : Instr), s.Running → s.pc.toNat + 1 ≤ 0xFFF →
    decodeBytes [Memory.read s.mem s.pc.toNat, Memory.read s.mem (s.pc.toNat + 1)] = .ok (i, []) →
    step s = exec i s.postFetch

/-- A fetch that would run past 0xFFF halts the core with FETCH_RANGE, no word, the address PC, and PC not
advanced (40_cycle.md; the spec's decisions D2, D6 and D16; log 5). -/
def Obligations.FetchOutOfRangeHalts : Prop :=
  ∀ s : State, s.Running → 0xFFF < s.pc.toNat + 1 →
    step s = .next { s.postFetch with pc := s.pc, halt := some ⟨.fetchRange, s.pc, none, some s.pc.toNat⟩ }

/-- A word that matches no row halts the core with INVALID_OPCODE and the word; PC stays post-fetch
(30_encoding.md section 5, 60_exceptions.md section 1; the record's form is the spec's decision D16; log 5). -/
def Obligations.InvalidWordHalts : Prop :=
  ∀ (s : State) (w : Word), s.Running → s.pc.toNat + 1 ≤ 0xFFF →
    decodeBytes [Memory.read s.mem s.pc.toNat, Memory.read s.mem (s.pc.toNat + 1)] = .error (.invalid w) →
    step s = .next { s.postFetch with halt := some ⟨.invalidOpcode, s.pc, some w, none⟩ }

/-- A halted core has no step, whatever the inputs (the spec's decision D29; that it is a fault of the step is
log 5). -/
def Obligations.HaltedCoreDoesNotStep : Prop :=
  ∀ (s : State) (r : HaltRecord), s.halt = some r →
    step s = .fault (.halted r) ∧ ∀ input : CycleInput, cycle input s = .fault (.halted r)

/-- The host's turn in a step is its operations done one after the other, and they touch the keys and SND alone
(60_exceptions.md section 5; the interleaving is the spec's decision D26; log 1). -/
def Obligations.HostTurnIsItsOperations : Prop :=
  ∀ (s : State) (ops : List HostOp),
    s.hostOps ops = ops.foldl State.hostOp s ∧ OnlyChanges [.keys, .sound] s (s.hostOps ops)

/-! ## Invariants of the whole machine -/

/-- Every step keeps the invariant: canonical memory, the font in place, I within 12 bits, PC at most 0x1002,
return addresses at most 0x1000, a halt record that is true (10_state.md sections 3, 4 and 10; D4, D15, D16). -/
def Obligations.StepKeepsInvariant : Prop :=
  ∀ s t : State, s.Inv → step s = .next t → t.Inv

/-- The reset state meets the invariant. -/
def Obligations.ResetMeetsInvariant : Prop := State.reset.Inv

/-- Every state of every run meets the invariant: any ROM, any cycle inputs, host operations in any number and
order (60_exceptions.md section 5, D26). -/
def Obligations.ReachableStatesMeetInvariant : Prop := ∀ s : State, Reachable s → s.Inv

/-- No step changes a byte of the font region, from any state (20_memory.md; the fault that keeps it so is the
spec's decision D15). -/
def Obligations.FontNeverReprogrammed : Prop :=
  ∀ (s t : State) (a : Nat), InFont a → step s = .next t → Memory.read t.mem a = Memory.read s.mem a

/-- Every instruction answers a next state from every state: none stops, none is refused (40_cycle.md section on
R147; a fault is a next state, log 5). -/
def Obligations.EveryInstructionAnswersNext : Prop :=
  ∀ (i : Instr) (s : State), ∃ t, exec i s = .next t

/-- Faults are precise: a fault keeps no write of the instruction, and its record holds the instruction's word and
the address it was fetched from (60_exceptions.md section 1; the spec's decision D16; logs 5 and 6). -/
def Obligations.FaultsArePrecise : Prop :=
  ∀ (i : Instr) (s t : State) (r : HaltRecord), s.Running → exec i s = .next t → t.halt = some r →
    t = { s with halt := some r } ∧ r.pc = s.pc - 2 ∧ r.word = some (encode i)

/-- An instruction raises only the faults the spec lists for it, and an address is recorded for MEM_RANGE and
FONT_WRITE alone (60_exceptions.md section 1, the derived table of R352 and the codes of D6). -/
def Obligations.FaultsOfEachInstruction : Prop :=
  ∀ (i : Instr) (s t : State) (r : HaltRecord), s.Running → exec i s = .next t → t.halt = some r →
    r.code ∈ raises i ∧ r.addr.isSome = r.code.recordsDataAddress

/-- Only RAND reads the cycle's random byte, and only READ_DELAY, SET_DELAY and SET_SOUND its time: every other
instruction does the same whatever they are (40_cycle.md; draws by the spec's decisions D12 and D22; log 1). -/
def Obligations.CycleInputsReadOnlyWhereNamed : Prop :=
  (∀ (i : Instr) (s t : State) (b : Byte), (∀ x nn, i ≠ .rand x nn) → exec i s = .next t →
    exec i { s with input := { s.input with rnd := b } } = .next { t with input := { t.input with rnd := b } }) ∧
  (∀ (i : Instr) (s t : State) (now : Time),
    (∀ x, i ≠ .readDelay x ∧ i ≠ .setDelay x ∧ i ≠ .setSound x) → exec i s = .next t →
    exec i { s with input := { s.input with now := now } } = .next { t with input := { t.input with now := now } })

/-- Instructions reach the framebuffer only through CLEAR and DRAW: any other does the same whatever it holds
(10_state.md section 8, 44_display.md). -/
def Obligations.FramebufferReachedByClearAndDrawOnly : Prop :=
  ∀ (i : Instr) (s t : State) (fb : Framebuffer), i ≠ .clear → (∀ x y n, i ≠ .draw x y n) → exec i s = .next t →
    exec i { s with fb := fb } = .next { t with fb := fb }

/-- VF changes only by an instruction that sets it as a flag, or that names it as its destination, or by a LOAD
whose range includes it (10_state.md section 5; ADD_INDEX's flag by the option ADD_INDEX_VF). -/
def Obligations.VfChangesOnlyAsListed : Prop :=
  ∀ (i : Instr) (s t : State), exec i s = .next t → ¬ setsFlag i → ¬ namesDestination VF i → t.reg VF = s.reg VF

/-! ## Control flow -/

/-- R162, R168: JUMP loads its address; JUMP_OFFSET loads V0 + nnn, or Vx + nn, masked to 12 bits. Neither changes
anything else. Their words are 0x1000 and 0xB000 with the address. -/
def Obligations.JumpTargets : Prop :=
  (∀ nnn : Word, nnn.toNat ≤ 0xFFF →
    IsWordOf (0x1000 + nnn.toNat) (.jump nnn) ∧ IsWordOf (0xB000 + nnn.toNat) (.jumpOffset nnn)) ∧
  (∀ (nnn : Word) (s : State), ∃ t, exec (.jump nnn) s = .next t ∧ t.pc = nnn ∧ OnlyChanges [.pc] s t) ∧
  (∀ (nnn : Word) (s : State), ∃ t, exec (.jumpOffset nnn) s = .next t ∧ OnlyChanges [.pc] s t ∧
    (Config.current.jumpOffsetMode = .bnnn → t.pc.toNat = ((s.reg 0).toNat + nnn.toNat) % 4096) ∧
    (Config.current.jumpOffsetMode = .bxnn →
      t.pc.toNat = ((s.reg (Fin.ofNat 16 (nnn.toNat / 256))).toNat + nnn.toNat % 256) % 4096))

/-- CALL pushes the post-fetch PC and jumps where the stack is not full; RETURN pops into PC where it is not empty
and clears no entry (41_control_flow.md, 10_state.md section 7; the bounds are the spec's decision D3). -/
def Obligations.CallPushesAndReturnPops : Prop :=
  (∀ (nnn : Word) (s : State), s.sp.val < 16 → ∃ t, exec (.call nnn) s = .next t ∧ t.pc = nnn ∧
    t.sp.val = s.sp.val + 1 ∧ ∀ k : Fin 16, t.stack[k] = if k.val = s.sp.val then s.pc else s.stack[k]) ∧
  (∀ s : State, 0 < s.sp.val → ∃ t, exec .ret s = .next t ∧ t.sp.val + 1 = s.sp.val ∧ t.stack = s.stack ∧
    ∀ k : Fin 16, k.val + 1 = s.sp.val → t.pc = s.stack[k])

/-- A CALL on a full stack halts with STACK_OVERFLOW, a RETURN on an empty one with STACK_UNDERFLOW, and nothing
else changes (the spec's decisions D3 and D16). -/
def Obligations.StackFaults : Prop :=
  (∀ (nnn : Word) (s : State), s.sp.val = 16 →
    exec (.call nnn) s = .next (s.haltedBy (.call nnn) .stackOverflow none)) ∧
  (∀ s : State, s.sp.val = 0 → exec .ret s = .next (s.haltedBy .ret .stackUnderflow none))

/-- From any state with room on the stack, CALL and then, from any state that kept the stack, RETURN, restore PC
to the post-fetch PC of the CALL and the depth, and change no entry below (95_test_vectors.md S2; D3). -/
def Obligations.CallThenReturn : Prop :=
  ∀ (nnn : Word) (s t u : State), s.sp.val < 16 → exec (.call nnn) s = .next t → u.stack = t.stack → u.sp = t.sp →
    ∃ v, exec .ret u = .next v ∧ v.pc = s.pc ∧ v.sp = s.sp ∧
      ∀ k : Fin 16, k.val < s.sp.val → v.stack[k] = s.stack[k]

/-- The four skips add 2 to the post-fetch PC, mod 65536, exactly when their test holds (41_control_flow.md; the
unmasked sum is the spec's decision D4). -/
def Obligations.SkipsTestAndAddTwo : Prop :=
  (∀ (x : Reg) (nn : Byte) (s : State), ∃ t, exec (.skipEqImm x nn) s = .next t ∧
    t.pc.toNat = (s.pc.toNat + if (s.reg x).toNat = nn.toNat then 2 else 0) % 65536) ∧
  (∀ (x : Reg) (nn : Byte) (s : State), ∃ t, exec (.skipNeImm x nn) s = .next t ∧
    t.pc.toNat = (s.pc.toNat + if (s.reg x).toNat = nn.toNat then 0 else 2) % 65536) ∧
  (∀ (x y : Reg) (s : State), ∃ t, exec (.skipEqReg x y) s = .next t ∧
    t.pc.toNat = (s.pc.toNat + if (s.reg x).toNat = (s.reg y).toNat then 2 else 0) % 65536) ∧
  (∀ (x y : Reg) (s : State), ∃ t, exec (.skipNeReg x y) s = .next t ∧
    t.pc.toNat = (s.pc.toNat + if (s.reg x).toNat = (s.reg y).toNat then 0 else 2) % 65536)

/-- What the control-flow instructions leave unchanged: all but PC, the stack for CALL and RETURN, and the halt
record where those two fault; RETURN changes no stack entry. -/
def Obligations.ControlFlowFrame : Prop :=
  (∀ (x y : Reg) (nn : Byte) (nnn : Word) (s t : State),
    (exec (.jump nnn) s = .next t ∨ exec (.jumpOffset nnn) s = .next t ∨ exec (.skipEqImm x nn) s = .next t ∨
      exec (.skipNeImm x nn) s = .next t ∨ exec (.skipEqReg x y) s = .next t ∨ exec (.skipNeReg x y) s = .next t) →
    OnlyChanges [.pc] s t) ∧
  (∀ (nnn : Word) (s t : State), exec (.call nnn) s = .next t →
    OnlyChanges [.pc, .stack, .halt] s t ∧ ∀ k : Fin 16, k.val ≠ s.sp.val → t.stack[k] = s.stack[k]) ∧
  (∀ s t : State, exec .ret s = .next t → OnlyChanges [.pc, .stack, .halt] s t ∧ t.stack = s.stack)

/-! ## Registers and arithmetic -/

/-- R202, R203, R204: SET_IMM loads the byte, ADD_IMM adds it mod 256 with no flag, COPY copies; VF is an ordinary
register to them. With the words of the three. -/
def Obligations.SetAddCopyResults : Prop :=
  (∀ (x y : Reg) (nn : Byte), IsWordOf (0x6000 + x.val * 256 + nn.toNat) (.setImm x nn) ∧
    IsWordOf (0x7000 + x.val * 256 + nn.toNat) (.addImm x nn) ∧ IsWordOf (0x8000 + x.val * 256 + y.val * 16) (.copy x y)) ∧
  (∀ (x : Reg) (nn : Byte) (s : State), ∃ t, exec (.setImm x nn) s = .next t ∧ t.reg x = nn ∧
    OnlyRegs [x] s t ∧ OnlyChanges [.registers] s t) ∧
  (∀ (x : Reg) (nn : Byte) (s : State), ∃ t, exec (.addImm x nn) s = .next t ∧
    (t.reg x).toNat = ((s.reg x).toNat + nn.toNat) % 256 ∧ OnlyRegs [x] s t ∧ OnlyChanges [.registers] s t) ∧
  (∀ (x y : Reg) (s : State), ∃ t, exec (.copy x y) s = .next t ∧ t.reg x = s.reg y ∧
    OnlyRegs [x] s t ∧ OnlyChanges [.registers] s t)

/-- R205, R206, R207: OR, AND and XOR work bit by bit on Vx and Vy; VF is not written unless it is Vx. With the
words of the three. -/
def Obligations.LogicResults : Prop :=
  (∀ x y : Reg, IsWordOf (0x8001 + x.val * 256 + y.val * 16) (.orReg x y) ∧
    IsWordOf (0x8002 + x.val * 256 + y.val * 16) (.andReg x y) ∧
    IsWordOf (0x8003 + x.val * 256 + y.val * 16) (.xorReg x y)) ∧
  (∀ (x y : Reg) (s : State), ∃ t, exec (.orReg x y) s = .next t ∧ OnlyRegs [x] s t ∧ OnlyChanges [.registers] s t ∧
    ∀ k < 8, (t.reg x).getLsbD k = ((s.reg x).getLsbD k || (s.reg y).getLsbD k)) ∧
  (∀ (x y : Reg) (s : State), ∃ t, exec (.andReg x y) s = .next t ∧ OnlyRegs [x] s t ∧ OnlyChanges [.registers] s t ∧
    ∀ k < 8, (t.reg x).getLsbD k = ((s.reg x).getLsbD k && (s.reg y).getLsbD k)) ∧
  (∀ (x y : Reg) (s : State), ∃ t, exec (.xorReg x y) s = .next t ∧ OnlyRegs [x] s t ∧ OnlyChanges [.registers] s t ∧
    ∀ k < 8, (t.reg x).getLsbD k = ((s.reg x).getLsbD k ^^ (s.reg y).getLsbD k))

/-- ADD_REG: the sum mod 256 and the carry, from the operands as they were; with VF as the destination the
spec's parameter VF_ALIAS_POLICY decides (42_register_alu.md; D7, D8). -/
def Obligations.AddRegResult : Prop :=
  ∀ (x y : Reg) (s : State), ∃ t, exec (.addReg x y) s = .next t ∧
    ResultAndFlag x (((s.reg x).toNat + (s.reg y).toNat) % 256)
      (if 255 < (s.reg x).toNat + (s.reg y).toNat then 1 else 0) t

/-- SUB and SUBN: the difference mod 256, and 1 in VF only where the minuend is strictly greater
(42_register_alu.md; D7 where VF is the destination, D8). -/
def Obligations.SubtractResults : Prop :=
  (∀ (x y : Reg) (s : State), ∃ t, exec (.sub x y) s = .next t ∧
    ResultAndFlag x (((s.reg x).toNat + 256 - (s.reg y).toNat) % 256)
      (if (s.reg y).toNat < (s.reg x).toNat then 1 else 0) t) ∧
  (∀ (x y : Reg) (s : State), ∃ t, exec (.subn x y) s = .next t ∧
    ResultAndFlag x (((s.reg y).toNat + 256 - (s.reg x).toNat) % 256)
      (if (s.reg x).toNat < (s.reg y).toNat then 1 else 0) t)

/-- SHIFT_RIGHT and SHIFT_LEFT of Vy or Vx by SHIFT_SOURCE: half with the low bit in VF, double mod 256 with the
high bit in VF (42_register_alu.md; D7 where VF is the destination). -/
def Obligations.ShiftResults : Prop :=
  (∀ (x y : Reg) (s : State), ∃ t b, exec (.shiftRight x y) s = .next t ∧ IsShiftValue x y s b ∧
    ResultAndFlag x (b.toNat / 2) (b.toNat % 2) t) ∧
  (∀ (x y : Reg) (s : State), ∃ t b, exec (.shiftLeft x y) s = .next t ∧ IsShiftValue x y s b ∧
    ResultAndFlag x (2 * b.toNat % 256) (b.toNat / 128) t)

/-- RAND: the cycle's random byte and nn, bit by bit; a draw under no law (42_register_alu.md; D22; log 1). -/
def Obligations.RandResult : Prop :=
  ∀ (x : Reg) (nn : Byte) (s : State), ∃ t, exec (.rand x nn) s = .next t ∧
    ∀ k < 8, (t.reg x).getLsbD k = (s.input.rnd.getLsbD k && nn.getLsbD k)

/-- What the register instructions leave unchanged: all but Vx, and VF too for the five that set a flag. -/
def Obligations.RegisterFrame : Prop :=
  (∀ (x y : Reg) (nn : Byte) (s t : State),
    (exec (.setImm x nn) s = .next t ∨ exec (.addImm x nn) s = .next t ∨ exec (.copy x y) s = .next t ∨
      exec (.orReg x y) s = .next t ∨ exec (.andReg x y) s = .next t ∨ exec (.xorReg x y) s = .next t ∨
      exec (.rand x nn) s = .next t ∨ exec (.readDelay x) s = .next t) →
    OnlyRegs [x] s t ∧ OnlyChanges [.registers] s t) ∧
  (∀ (x y : Reg) (s t : State),
    (exec (.addReg x y) s = .next t ∨ exec (.sub x y) s = .next t ∨ exec (.shiftRight x y) s = .next t ∨
      exec (.subn x y) s = .next t ∨ exec (.shiftLeft x y) s = .next t) →
    OnlyRegs [x, VF] s t ∧ OnlyChanges [.registers] s t)

/-! ## Index register and memory -/

/-- R251, R253: SET_INDEX loads nnn, POINT_CHAR the address 0x050 + 5 * (Vx mod 16); nothing else changes. With the
words of both. -/
def Obligations.SetIndexAndPointChar : Prop :=
  (∀ nnn : Word, nnn.toNat ≤ 0xFFF → IsWordOf (0xA000 + nnn.toNat) (.setIndex nnn)) ∧
  (∀ x : Reg, IsWordOf (0xF029 + x.val * 256) (.pointChar x)) ∧
  (∀ (nnn : Word) (s : State), ∃ t, exec (.setIndex nnn) s = .next t ∧ t.i = nnn ∧ OnlyChanges [.index] s t) ∧
  (∀ (x : Reg) (s : State), ∃ t, exec (.pointChar x) s = .next t ∧
    t.i.toNat = 0x050 + 5 * ((s.reg x).toNat % 16) ∧ OnlyChanges [.index] s t)

/-- ADD_INDEX: the sum masked to 12 bits; under SET, VF is 1 on overflow and 0 otherwise, the 0 being the spec's
decision D10; under NEVER, VF is not written (43_index_memory.md). -/
def Obligations.AddIndexResult : Prop :=
  ∀ (x : Reg) (s : State), ∃ t, exec (.addIndex x) s = .next t ∧
    t.i.toNat = (s.i.toNat + (s.reg x).toNat) % 4096 ∧
    (Config.current.addIndexVf = .set → (t.reg VF).toNat = if 0xFFF < s.i.toNat + (s.reg x).toNat then 1 else 0) ∧
    (Config.current.addIndexVf = .never → t.reg VF = s.reg VF)

/-- What the index instructions leave unchanged: all but I, and VF for ADD_INDEX under SET. -/
def Obligations.IndexFrame : Prop :=
  (∀ (nnn : Word) (x : Reg) (s t : State), (exec (.setIndex nnn) s = .next t ∨ exec (.pointChar x) s = .next t) →
    OnlyChanges [.index] s t) ∧
  (∀ (x : Reg) (s t : State), exec (.addIndex x) s = .next t → OnlyChanges [.index, .registers] s t ∧
    OnlyRegs [VF] s t ∧ (Config.current.addIndexVf = .never → t.reg VF = s.reg VF))

/-- BCD where none of I, I + 1, I + 2 faults: the hundreds digit only from 100 on, the tens and ones digits, and
the unsettled leading ones by BCD_UNSETTLED (43_index_memory.md; D9; the check of all three addresses is D17). -/
def Obligations.BcdResult : Prop :=
  ∀ (x : Reg) (s : State), (∀ k < 3, ¬ BadWrite (s.i.toNat + k)) → ∃ t, exec (.bcd x) s = .next t ∧
    (100 ≤ (s.reg x).toNat → (Memory.read t.mem s.i.toNat).toNat = (s.reg x).toNat / 100) ∧
    ((s.reg x).toNat < 100 → Memory.read t.mem s.i.toNat = Memory.read s.mem s.i.toNat) ∧
    (10 ≤ (s.reg x).toNat → (Memory.read t.mem (s.i.toNat + 1)).toNat = (s.reg x).toNat / 10 % 10) ∧
    ((s.reg x).toNat < 10 → UnsettledByte (Memory.read s.mem (s.i.toNat + 1)) (Memory.read t.mem (s.i.toNat + 1))) ∧
    (1 ≤ (s.reg x).toNat → (Memory.read t.mem (s.i.toNat + 2)).toNat = (s.reg x).toNat % 10) ∧
    ((s.reg x).toNat = 0 → UnsettledByte (Memory.read s.mem (s.i.toNat + 2)) (Memory.read t.mem (s.i.toNat + 2)))

/-- SAVE where no address of I..I + x faults: V0..Vx stand at I..I + x, and I moves past them, masked to 12 bits,
under INCREMENT and stays under KEEP (43_index_memory.md; the faults are D2 and D15). -/
def Obligations.SaveResult : Prop :=
  ∀ (x : Reg) (s : State), (∀ k ≤ x.val, ¬ BadWrite (s.i.toNat + k)) → ∃ t, exec (.save x) s = .next t ∧
    (∀ k : Reg, k ≤ x → Memory.read t.mem (s.i.toNat + k.val) = s.reg k) ∧
    (Config.current.saveIncrementI = .increment → t.i.toNat = (s.i.toNat + x.val + 1) % 4096) ∧
    (Config.current.saveIncrementI = .keep → t.i = s.i)

/-- LOAD where I + x is at most 0xFFF: V0..Vx get the bytes at I..I + x, the other registers and I stay
(43_index_memory.md; the fault is D2). -/
def Obligations.LoadResult : Prop :=
  ∀ (x : Reg) (s : State), s.i.toNat + x.val ≤ 0xFFF → ∃ t, exec (.load x) s = .next t ∧ t.i = s.i ∧
    ∀ k : Reg, t.reg k = if k ≤ x then Memory.read s.mem (s.i.toNat + k.val) else s.reg k

/-- BCD, SAVE, LOAD and DRAW halt on the lowest bad address of their span, before any write (43_index_memory.md,
44_display.md; the spec's decisions D2, D15, D16 and D17). -/
def Obligations.MemoryFaults : Prop :=
  (∀ (x : Reg) (s : State) (a : Nat), LowestBad BadWrite s.i.toNat 3 a →
    exec (.bcd x) s = .next (s.haltedBy (.bcd x) (badWriteCode a) (some a))) ∧
  (∀ (x : Reg) (s : State) (a : Nat), LowestBad BadWrite s.i.toNat (x.val + 1) a →
    exec (.save x) s = .next (s.haltedBy (.save x) (badWriteCode a) (some a))) ∧
  (∀ (x : Reg) (s : State) (a : Nat), LowestBad BadRead s.i.toNat (x.val + 1) a →
    exec (.load x) s = .next (s.haltedBy (.load x) .memRange (some a))) ∧
  (∀ (x y : Reg) (n : Nat) (s : State) (a : Nat), LowestBad BadRead s.i.toNat n a →
    exec (.draw x y n) s = .next (s.haltedBy (.draw x y n) .memRange (some a)))

/-- What the memory instructions leave unchanged: BCD stores at I..I + 2 alone, SAVE at I..I + x and moves I only
under INCREMENT, LOAD writes V0..Vx; each may halt. -/
def Obligations.MemoryFrame : Prop :=
  (∀ (x : Reg) (s t : State), exec (.bcd x) s = .next t →
    OnlyChanges [.memory, .halt] s t ∧ OnlyBytes s.i.toNat 3 s t) ∧
  (∀ (x : Reg) (s t : State), exec (.save x) s = .next t →
    OnlyChanges [.memory, .index, .halt] s t ∧ OnlyBytes s.i.toNat (x.val + 1) s t ∧
    (Config.current.saveIncrementI = .keep → t.i = s.i)) ∧
  (∀ (x : Reg) (s t : State), exec (.load x) s = .next t →
    OnlyChanges [.registers, .halt] s t ∧ ∀ r : Reg, x < r → t.reg r = s.reg r)

/-- SAVE and then LOAD of the same registers, from any state that kept the stored bytes and with I put back,
restore V0..Vx (43_index_memory.md). -/
def Obligations.SaveThenLoad : Prop :=
  ∀ (x : Reg) (s t u : State), (∀ k ≤ x.val, ¬ BadWrite (s.i.toNat + k)) → exec (.save x) s = .next t →
    u.mem = t.mem → u.i = s.i → ∃ v, exec (.load x) u = .next v ∧ ∀ k : Reg, k ≤ x → v.reg k = s.reg k

/-! ## Display -/

/-- R291: CLEAR sets every byte of the framebuffer to 0, so every pixel is black, and changes nothing else. With its
word. -/
def Obligations.ClearBlackensEveryPixel : Prop :=
  IsWordOf 0x00E0 .clear ∧
  ∀ s : State, ∃ t, exec .clear s = .next t ∧ (∀ b : Fin 256, t.fb[b] = 0) ∧
    (∀ px py, t.fb.readPixel px py = false) ∧ OnlyChanges [.framebuffer] s t

/-- DRAW where every sprite byte is readable: each pixel is XORed with the sprite's bit on it, clipped at the
edges, and VF is 1 exactly where a lit pixel meets a 1-bit (44_display.md; y mod 32 is conflict C3, the read of
clipped rows D2, n = 0 D27). -/
def Obligations.DrawXorsTheSprite : Prop :=
  ∀ (x y : Reg) (n : Nat) (s : State), (n = 0 ∨ s.i.toNat + (n - 1) ≤ 0xFFF) → ∃ t, exec (.draw x y n) s = .next t ∧
    (∀ px py, t.fb.readPixel px py = (s.fb.readPixel px py ^^ spriteBit s x y n px py)) ∧
    (SpriteMeets s x y n true → t.reg VF = 1) ∧ (¬ SpriteMeets s x y n true → t.reg VF = 0)

/-- Two DRAWs of one sprite at one origin restore every pixel, and the second sets VF exactly where some visible
1-bit lay on a pixel that was 0 before the first (44_display.md, the derived rule R296). -/
def Obligations.DrawTwiceRestoresScreen : Prop :=
  ∀ (x y : Reg) (n : Nat) (s t : State), (n = 0 ∨ s.i.toNat + (n - 1) ≤ 0xFFF) → exec (.draw x y n) s = .next t →
    (t.reg x).toNat % 64 = (s.reg x).toNat % 64 → (t.reg y).toNat % 32 = (s.reg y).toNat % 32 →
    ∃ u, exec (.draw x y n) t = .next u ∧ (∀ px py, u.fb.readPixel px py = s.fb.readPixel px py) ∧
      (u.reg VF = 1 ↔ SpriteMeets s x y n false)

/-- R56: WritePixel sets the target bit of byte floor(k/8), k = y*64 + x, and leaves the other bits of the byte
untouched; every other byte stays; so a pixel reads back as written and no other pixel changes. -/
def Obligations.WritePixelSetsOneBit : Prop :=
  ∀ (fb : Framebuffer) (x : Fin 64) (y : Fin 32) (p : Bool),
    (∀ (j : Fin 256) (b : Nat), b < 8 → ((fb.writePixel x y p)[j]).getLsbD b =
      if j.val = (y.val * 64 + x.val) / 8 ∧ b = 7 - (y.val * 64 + x.val) % 8 then p else (fb[j]).getLsbD b) ∧
    (∀ (x' : Fin 64) (y' : Fin 32), (fb.writePixel x y p).readPixel x' y' =
      if x' = x ∧ y' = y then p else fb.readPixel x' y')

/-- What the display instructions leave unchanged: all but the framebuffer, and VF for DRAW, which may halt. -/
def Obligations.DisplayFrame : Prop :=
  (∀ s t : State, exec .clear s = .next t → OnlyChanges [.framebuffer] s t) ∧
  (∀ (x y : Reg) (n : Nat) (s t : State), exec (.draw x y n) s = .next t →
    OnlyChanges [.framebuffer, .registers, .halt] s t ∧ OnlyRegs [VF] s t)

/-! ## Keys and timers -/

/-- SKIP_PRESSED and SKIP_NOT_PRESSED: on the key Vx where Vx is at most 15, else KEY_RANGE (45_keys_timers.md; the
fault is the spec's decision D14, the unmasked sum D4). -/
def Obligations.KeySkips : Prop :=
  (∀ (x : Reg) (s : State), (s.reg x).toNat ≤ 15 →
    (∃ t, exec (.skipPressed x) s = .next t ∧ OnlyChanges [.pc] s t ∧
      t.pc.toNat = (s.pc.toNat + if s.keys.getLsbD (s.reg x).toNat = true then 2 else 0) % 65536) ∧
    (∃ t, exec (.skipNotPressed x) s = .next t ∧ OnlyChanges [.pc] s t ∧
      t.pc.toNat = (s.pc.toNat + if s.keys.getLsbD (s.reg x).toNat = true then 0 else 2) % 65536)) ∧
  (∀ (x : Reg) (s : State), 15 < (s.reg x).toNat →
    exec (.skipPressed x) s = .next (s.haltedBy (.skipPressed x) .keyRange none) ∧
    exec (.skipNotPressed x) s = .next (s.haltedBy (.skipNotPressed x) .keyRange none))

/-- R324: with some key down, WAIT_KEY loads the least one and PC stays post-fetch; with none down, it goes back
onto itself and Vx stays. With its word. -/
def Obligations.WaitKeyTakesLowestKey : Prop :=
  (∀ x : Reg, IsWordOf (0xF00A + x.val * 256) (.waitKey x)) ∧
  (∀ (x k : Reg) (s : State), s.keys.getLsbD k.val = true → (∀ j : Reg, j < k → s.keys.getLsbD j.val = false) →
    ∃ t, exec (.waitKey x) s = .next t ∧ (t.reg x).toNat = k.val ∧ OnlyRegs [x] s t ∧ OnlyChanges [.registers] s t) ∧
  (∀ (x : Reg) (s : State), (∀ j : Reg, s.keys.getLsbD j.val = false) →
    ∃ t, exec (.waitKey x) s = .next t ∧ t.pc.toNat = (s.pc.toNat + 65536 - 2) % 65536 ∧ OnlyChanges [.pc] s t)

/-- R370: what a timer reads, on unbounded integers. -/
def Obligations.TimerReadFormula : Prop :=
  ∀ (T : Timer) (now : Time), ((T.read now).toNat : Int) =
    if T.ts = 0 then 0 else max 0 ((T.val.toNat : Int) - 60 * max 0 (now.toInt - T.ts.toInt) / 1000)

/-- R323, R325, R326: READ_DELAY loads what the delay timer reads at the cycle's time and changes no timer;
SET_DELAY and SET_SOUND store (now, Vx) in their timer, and SND does not change. With the words of the three. -/
def Obligations.TimerInstructions : Prop :=
  (∀ x : Reg, IsWordOf (0xF007 + x.val * 256) (.readDelay x) ∧ IsWordOf (0xF015 + x.val * 256) (.setDelay x) ∧
    IsWordOf (0xF018 + x.val * 256) (.setSound x)) ∧
  (∀ (x : Reg) (s : State), ∃ t, exec (.readDelay x) s = .next t ∧ t.reg x = s.dt.read s.input.now ∧
    OnlyRegs [x] s t ∧ OnlyChanges [.registers] s t) ∧
  (∀ (x : Reg) (s : State), ∃ t, exec (.setDelay x) s = .next t ∧ t.dt.ts = s.input.now ∧ t.dt.val = s.reg x ∧
    OnlyChanges [.delayTimer] s t) ∧
  (∀ (x : Reg) (s : State), ∃ t, exec (.setSound x) s = .next t ∧ t.st.ts = s.input.now ∧ t.st.val = s.reg x ∧
    OnlyChanges [.soundTimer] s t)

/-- A delay set at a time other than 0 reads, d milliseconds later, its value less floor(60 d / 1000) ticks, down
to 0; a delay set at time 0 reads 0 (60_exceptions.md section 3, 95_test_vectors.md S6; times are draws, D12). -/
def Obligations.SetDelayThenRead : Prop :=
  ∀ (x y : Reg) (s t u : State), exec (.setDelay x) s = .next t → u.dt = t.dt → ∃ v, exec (.readDelay y) u = .next v ∧
    (s.input.now = 0 → v.reg y = 0) ∧
    (∀ d : Nat, s.input.now ≠ 0 → u.input.now.toInt = s.input.now.toInt + d →
      (v.reg y).toNat = (s.reg x).toNat - 60 * d / 1000)

/-- What the key and timer instructions leave unchanged. -/
def Obligations.KeysTimersFrame : Prop :=
  (∀ (x : Reg) (s t : State), (exec (.skipPressed x) s = .next t ∨ exec (.skipNotPressed x) s = .next t) →
    OnlyChanges [.pc, .halt] s t) ∧
  (∀ (x : Reg) (s t : State), exec (.waitKey x) s = .next t → OnlyChanges [.pc, .registers] s t ∧ OnlyRegs [x] s t) ∧
  (∀ (x : Reg) (s t : State), exec (.setDelay x) s = .next t → OnlyChanges [.delayTimer] s t) ∧
  (∀ (x : Reg) (s t : State), exec (.setSound x) s = .next t → OnlyChanges [.soundTimer] s t)

/-! ## The host and reset -/

/-- R375: REFRESH_BEEPER sets SND to whether the sound timer reads above 0 at its time, and changes nothing else;
neither another host operation nor a cycle changes SND. -/
def Obligations.RefreshBeeperMirrorsSoundTimer : Prop :=
  (∀ (s : State) (now : Time), ((s.hostOp (.refreshBeeper now)).snd = true ↔ 0 < (s.st.read now).toNat) ∧
    OnlyChanges [.sound] s (s.hostOp (.refreshBeeper now))) ∧
  (∀ (s : State) (k : BitVec 16) (px : Fin 64) (py : Fin 32),
    (s.hostOp (.setKeys k)).snd = s.snd ∧ (s.hostOp (.readPixel px py)).snd = s.snd) ∧
  (∀ (s t : State) (input : CycleInput), cycle input s = .next t → t.snd = s.snd)

/-- SET_KEYS replaces all sixteen key bits and nothing else, READ_PIXEL changes nothing, and no cycle changes a key
(60_exceptions.md sections 4 and 5; D26). -/
def Obligations.SetKeysReplacesAllKeys : Prop :=
  (∀ (s : State) (k : BitVec 16), (∀ j < 16, (s.hostOp (.setKeys k)).keys.getLsbD j = k.getLsbD j) ∧
    OnlyChanges [.keys] s (s.hostOp (.setKeys k))) ∧
  (∀ (s : State) (px : Fin 64) (py : Fin 32), s.hostOp (.readPixel px py) = s) ∧
  (∀ (s t : State) (input : CycleInput), cycle input s = .next t → t.keys = s.keys)

/-- What reset leaves (10_state.md section 12; FONT is a parameter, D21; HALT is D16; the empty ROM is log 7). -/
def Obligations.ResetValues : Prop :=
  State.reset.pc.toNat = 0x200 ∧ State.reset.i.toNat = 0 ∧ State.reset.sp.val = 0 ∧
  (∀ r : Reg, State.reset.reg r = 0) ∧ (∀ k : Fin 16, State.reset.stack[k] = 0) ∧
  (∀ px py, State.reset.fb.readPixel px py = false) ∧ (∀ k : Reg, State.reset.keys.getLsbD k.val = false) ∧
  State.reset.dt = ⟨0, 0⟩ ∧ State.reset.st = ⟨0, 0⟩ ∧ State.reset.snd = false ∧ State.reset.halt = none ∧
  (∀ k : Fin 80, Memory.read State.reset.mem (0x050 + k.val) = Config.current.font[k]) ∧
  (∀ a : Nat, ¬ InFont a → Memory.read State.reset.mem a = 0)

/-- RESET of a ROM of at most 3584 bytes is the reset state with the ROM at 0x200; a longer one is refused
(70_reset_and_hazards.md section 1; D28; log 8). -/
def Obligations.ResetPlacesRom : Prop :=
  ∀ rom : List Byte,
    (rom.length ≤ 3584 → ∃ s, resetRom rom = .next s ∧ OnlyChanges [.memory] State.reset s ∧
      (∀ (k : Nat) (h : k < rom.length), Memory.read s.mem (0x200 + k) = rom[k]) ∧
      OnlyBytes 0x200 rom.length State.reset s) ∧
    (3584 < rom.length → resetRom rom = .refused (.romTooLong rom.length))

/-- A JUMP to its own address idles: from such a state any number of steps succeeds and leaves PC, memory,
registers, stack, framebuffer, timers and the halt record as they were (41_control_flow.md, 70_reset_and_hazards.md;
the end of a run is the spec's decision D25). -/
def Obligations.SelfJumpIdles : Prop :=
  ∀ (s : State) (k : Nat), s.AtSelfJump → ∃ t, Sys2Proof.core.run k s = .next t ∧ t.AtSelfJump ∧
    OnlyChanges [.keys, .sound, .hostInputs] s t
end

