-- ==== Sys2Proof/Laws/Decode.lean ====
section
/-! SUPPORT. The fields of packed words (30_encoding.md R111, R112). -/
namespace Sys2Proof

theorem pack_toNat (op x y n : BitVec 4) : (pack op x y n).toNat = op.toNat * 4096 + x.toNat * 256 + y.toNat * 16 + n.toNat := by
  have := op.isLt; have := x.isLt; have := y.isLt; have := n.isLt
  simp only [pack, BitVec.toNat_append]
  rw [← Nat.shiftLeft_add_eq_or_of_lt (by omega), ← Nat.shiftLeft_add_eq_or_of_lt (by omega),
    ← Nat.shiftLeft_add_eq_or_of_lt (by omega)]
  simp only [Nat.shiftLeft_eq]
  omega

theorem packByte_toNat (op x : BitVec 4) (nn : Byte) : (packByte op x nn).toNat = op.toNat * 4096 + x.toNat * 256 + nn.toNat := by
  have := op.isLt; have := x.isLt; have := nn.isLt
  simp only [packByte, BitVec.toNat_append]
  rw [← Nat.shiftLeft_add_eq_or_of_lt (by omega), ← Nat.shiftLeft_add_eq_or_of_lt (by omega)]
  simp only [Nat.shiftLeft_eq]
  omega

theorem packAddress_toNat (op : BitVec 4) (nnn : Word) : (packAddress op nnn).toNat = op.toNat * 4096 + nnn.toNat % 4096 := by
  have := op.isLt; have := nnn.isLt
  simp only [packAddress, BitVec.toNat_append, BitVec.toNat_setWidth]
  rw [← Nat.shiftLeft_add_eq_or_of_lt (by omega)]
  simp only [Nat.shiftLeft_eq]

theorem fieldOp_toNat (w : Word) : (fieldOp w).toNat = w.toNat / 4096 := by
  have := w.isLt
  simp only [fieldOp, BitVec.extractLsb'_toNat, Nat.shiftRight_eq_div_pow]; omega

theorem fieldX_val (w : Word) : (fieldX w).val = w.toNat / 256 % 16 := by
  simp only [fieldX, BitVec.val_toFin, BitVec.extractLsb'_toNat, Nat.shiftRight_eq_div_pow]

theorem fieldY_val (w : Word) : (fieldY w).val = w.toNat / 16 % 16 := by
  simp only [fieldY, BitVec.val_toFin, BitVec.extractLsb'_toNat, Nat.shiftRight_eq_div_pow]

theorem fieldN_toNat (w : Word) : (fieldN w).toNat = w.toNat % 16 := by
  simp only [fieldN, BitVec.extractLsb'_toNat, Nat.shiftRight_eq_div_pow]; omega

theorem fieldNn_toNat (w : Word) : (fieldNn w).toNat = w.toNat % 256 := by
  simp only [fieldNn, BitVec.extractLsb'_toNat, Nat.shiftRight_eq_div_pow]; omega

theorem fieldNnn_toNat (w : Word) : (fieldNnn w).toNat = w.toNat % 4096 := by
  simp only [fieldNnn, BitVec.extractLsb'_toNat, Nat.shiftRight_eq_div_pow]; omega

@[simp] theorem regField_toNat (x : Reg) : (regField x).toNat = x.val := rfl

@[simp] theorem fieldOp_pack (op x y n : BitVec 4) : fieldOp (pack op x y n) = op := by
  apply BitVec.eq_of_toNat_eq
  rw [fieldOp_toNat, pack_toNat]; have := op.isLt; have := x.isLt; have := y.isLt; have := n.isLt; omega

@[simp] theorem fieldX_pack (op : BitVec 4) (x : Reg) (y n : BitVec 4) : fieldX (pack op (regField x) y n) = x := by
  apply Fin.ext
  rw [fieldX_val, pack_toNat, regField_toNat]; have := op.isLt; have := x.isLt; have := y.isLt; have := n.isLt; omega

@[simp] theorem fieldY_pack (op x : BitVec 4) (y : Reg) (n : BitVec 4) : fieldY (pack op x (regField y) n) = y := by
  apply Fin.ext
  rw [fieldY_val, pack_toNat, regField_toNat]; have := op.isLt; have := x.isLt; have := y.isLt; have := n.isLt; omega

@[simp] theorem fieldN_pack (op x y n : BitVec 4) : fieldN (pack op x y n) = n := by
  apply BitVec.eq_of_toNat_eq
  rw [fieldN_toNat, pack_toNat]; have := n.isLt; omega

@[simp] theorem fieldOp_packByte (op x : BitVec 4) (nn : Byte) : fieldOp (packByte op x nn) = op := by
  apply BitVec.eq_of_toNat_eq
  rw [fieldOp_toNat, packByte_toNat]; have := op.isLt; have := x.isLt; have := nn.isLt; omega

@[simp] theorem fieldX_packByte (op : BitVec 4) (x : Reg) (nn : Byte) : fieldX (packByte op (regField x) nn) = x := by
  apply Fin.ext
  rw [fieldX_val, packByte_toNat, regField_toNat]; have := op.isLt; have := x.isLt; have := nn.isLt; omega

@[simp] theorem fieldNn_packByte (op x : BitVec 4) (nn : Byte) : fieldNn (packByte op x nn) = nn := by
  apply BitVec.eq_of_toNat_eq
  rw [fieldNn_toNat, packByte_toNat]; have := nn.isLt; omega

@[simp] theorem fieldOp_packAddress (op : BitVec 4) (nnn : Word) : fieldOp (packAddress op nnn) = op := by
  apply BitVec.eq_of_toNat_eq
  rw [fieldOp_toNat, packAddress_toNat]; have := op.isLt; omega

@[simp] theorem fieldNnn_packAddress (op : BitVec 4) (nnn : Word) : fieldNnn (packAddress op nnn) = nnn.setWidth 12 := by
  apply BitVec.eq_of_toNat_eq
  rw [fieldNnn_toNat, packAddress_toNat, BitVec.toNat_setWidth]; omega

/-- An address that fits its field comes back from it. -/
theorem address_roundtrip {nnn : Word} (h : addressFits nnn = true) : (nnn.setWidth 12).setWidth 16 = nnn := by
  simp only [addressFits, decide_eq_true_eq] at h
  apply BitVec.eq_of_toNat_eq
  simp only [BitVec.toNat_setWidth]; omega

/-- The bytes of a word make the word (R86). -/
@[simp] theorem wordOfBytes_bytesOfWord (w : Word) : wordOfBytes (w.extractLsb' 8 8) (w.extractLsb' 0 8) = w := by
  apply BitVec.eq_of_toNat_eq
  have h := w.isLt
  have h0 : (w.extractLsb' 0 8).toNat < 2 ^ 8 := (w.extractLsb' 0 8).isLt
  simp only [wordOfBytes, BitVec.toNat_append]
  rw [← Nat.shiftLeft_add_eq_or_of_lt h0]
  simp only [BitVec.extractLsb'_toNat, Nat.shiftRight_eq_div_pow, Nat.shiftLeft_eq]
  omega

/-- The decoder on the bytes of a word is the decoder on the word. -/
theorem decodeTableWord_eq (w : Nat) : decodeTableWord 16 w = decodeWord (BitVec.ofNat 16 w) := by
  have h : BitVec.ofNat 16 (w % 2 ^ 16) = BitVec.ofNat 16 w := by
    apply BitVec.eq_of_toNat_eq; simp
  unfold decodeTableWord
  rw [h]
  simp only [bytesOfWord, decodeBytes, wordOfBytes_bytesOfWord]
  cases decodeWord (BitVec.ofNat 16 w) <;> rfl

end Sys2Proof
end

