-- ==== Sys2Proof/Laws/Framebuffer.lean ====
section
/-! SUPPORT. The laws of the framebuffer: a pixel after a write and after a fill, and what drawing sprite rows does
to every pixel and to the collision flag. -/
namespace Sys2Proof.Machine

theorem pixel_unique {x x' : Fin 64} {y y' : Fin 32} (h : pixelByte x' y' = pixelByte x y) (hb : pixelBit x' y' = pixelBit x y) :
    x' = x ∧ y' = y := by
  have h := Fin.val_eq_of_eq h
  simp only [pixelByte, pixelBit] at h hb
  constructor <;> apply Fin.ext <;> omega

theorem pixelBit_lt (x : Fin 64) (y : Fin 32) : pixelBit x y < 8 := by unfold pixelBit; omega

/-- One bit of a byte replaced. -/
theorem setBit_getLsbD (b : Byte) (k j : Nat) (p : Bool) (hk : k < 8) (hj : j < 8) :
    ((b &&& ~~~(1#8 <<< k)) ||| ((if p then 1#8 else 0#8) <<< k)).getLsbD j = if j = k then p else b.getLsbD j := by
  by_cases h : j = k
  · subst h; cases p <;> simp [hj]
  · rcases Nat.lt_or_gt_of_ne h with h' | h'
    · cases p <;> simp [hj, h, h']
    · have h2 : j - k ≠ 0 := by omega
      cases p <;> simp [hj, h, h2, Nat.not_lt.2 (Nat.le_of_lt h')]

/-- A pixel after a pixel write: the value written there, what was there elsewhere (R56). -/
theorem Framebuffer.readPixel_writePixel (fb : Framebuffer) (x : Fin 64) (y : Fin 32) (p : Bool) (x' : Fin 64) (y' : Fin 32) :
    (fb.writePixel x y p).readPixel x' y' = if x' = x ∧ y' = y then p else fb.readPixel x' y' := by
  unfold Framebuffer.readPixel Framebuffer.writePixel
  simp only [Fin.getElem_fin, Vector.getElem_set]
  by_cases h : (pixelByte x y).val = (pixelByte x' y').val
  · rw [if_pos h, setBit_getLsbD _ _ _ _ (pixelBit_lt x y) (pixelBit_lt x' y')]
    by_cases hb : pixelBit x' y' = pixelBit x y
    · rw [if_pos hb, if_pos (pixel_unique (Fin.ext h.symm) hb)]
    · rw [if_neg hb, if_neg (fun e => hb (by rw [e.1, e.2]))]
      simp only [h]
  · have hne : ¬ (x' = x ∧ y' = y) := fun e => h (by rw [e.1, e.2])
    rw [if_neg h, if_neg hne]

@[simp] theorem Framebuffer.readPixel_fill (white : Bool) (x : Fin 64) (y : Fin 32) :
    (Framebuffer.fill white).readPixel x y = white := by
  have h := pixelBit_lt x y
  unfold Framebuffer.readPixel Framebuffer.fill
  simp only [Fin.getElem_fin, Vector.getElem_replicate]
  generalize pixelBit x y = k at h
  cases white
  · simp
  · simp only [if_true]
    interval_cases k <;> rfl

/-- Whether sprite rows drawn with their first row at row `r` cover pixel (px, py) with a 1-bit. -/
def rowsBit (x0 y0 r : Nat) (rows : List Byte) (px : Fin 64) (py : Fin 32) : Bool :=
  decide (x0 ≤ px.val ∧ px.val < x0 + 8 ∧ y0 + r ≤ py.val) &&
    ((rows[py.val - (y0 + r)]?).getD 0).getLsbD (7 - (px.val - x0))

/-- What a part of a drawing does: XOR on every pixel, and the collision flag of the pixels turned off. -/
structure Draws (bit : Fin 64 → Fin 32 → Bool) (before after : Canvas) : Prop where
  pixel : ∀ px py, after.1.readPixel px py = (before.1.readPixel px py ^^ bit px py)
  collision : after.2 = true ↔ before.2 = true ∨ ∃ px py, bit px py = true ∧ before.1.readPixel px py = true

theorem Draws.none (c : Canvas) : Draws (fun _ _ => false) c c := ⟨by simp, by simp⟩

/-- Two parts that share no pixel make one. -/
theorem Draws.trans {f g : Fin 64 → Fin 32 → Bool} {a b c : Canvas} (h1 : Draws f a b) (h2 : Draws g b c)
    (apart : ∀ px py, f px py = true → g px py = false) : Draws (fun px py => f px py || g px py) a c := by
  constructor
  · intro px py
    rw [h2.pixel, h1.pixel]
    have := apart px py
    cases hf : f px py <;> cases hg : g px py <;> simp_all
  · rw [h2.collision, h1.collision]
    constructor
    · rintro ((h | ⟨px, py, hb, hp⟩) | ⟨px, py, hb, hp⟩)
      · exact .inl h
      · exact .inr ⟨px, py, by simp [hb], hp⟩
      · refine .inr ⟨px, py, by simp [hb], ?_⟩
        rw [h1.pixel] at hp
        cases hf : f px py
        · simpa [hf] using hp
        · simp [apart px py hf] at hb
    · rintro (h | ⟨px, py, hb, hp⟩)
      · exact .inl (.inl h)
      · cases hf : f px py
        · refine .inr ⟨px, py, by simpa [hf] using hb, ?_⟩
          rw [h1.pixel, hf, hp]; rfl
        · exact .inl (.inr ⟨px, py, hf, hp⟩)

theorem drawPixel_draws (x0 y0 r : Nat) (row : Byte) (canvas : Canvas) (c : Nat) :
    Draws (fun px py => decide (px.val = x0 + c ∧ py.val = y0 + r) && row.getLsbD (7 - c)) canvas
      (drawPixel x0 y0 r row canvas c) := by
  unfold drawPixel
  split
  · rename_i h
    constructor
    · intro px py
      rw [Framebuffer.readPixel_writePixel]
      by_cases hp : px = ⟨x0 + c, h.1⟩ ∧ py = ⟨y0 + r, h.2⟩
      · obtain ⟨rfl, rfl⟩ := hp
        simp [Bool.xor_comm]
      · rw [if_neg hp]
        have : ¬ (px.val = x0 + c ∧ py.val = y0 + r) := fun e => hp ⟨Fin.ext e.1, Fin.ext e.2⟩
        simp [this]
    · simp only [Bool.or_eq_true, Bool.and_eq_true, decide_eq_true_eq]
      constructor
      · rintro (h' | ⟨h1, h2⟩)
        · exact .inl h'
        · exact .inr ⟨_, _, ⟨⟨rfl, rfl⟩, h1⟩, h2⟩
      · rintro (h' | ⟨px, py, ⟨⟨hx, hy⟩, hb⟩, hp⟩)
        · exact .inl h'
        · have hx' : px = ⟨x0 + c, h.1⟩ := Fin.ext hx
          have hy' : py = ⟨y0 + r, h.2⟩ := Fin.ext hy
          subst hx' hy'
          exact .inr ⟨hb, hp⟩
  · rename_i h
    have : (fun (px : Fin 64) (py : Fin 32) => decide (px.val = x0 + c ∧ py.val = y0 + r) && row.getLsbD (7 - c)) =
        fun _ _ => false := by
      funext px py
      have : ¬ (px.val = x0 + c ∧ py.val = y0 + r) := by have := px.isLt; have := py.isLt; omega
      simp [this]
    rw [this]
    exact Draws.none canvas

/-- One sprite row. -/
theorem drawRow_draws (x0 y0 r : Nat) (row : Byte) (canvas : Canvas) :
    Draws (fun px py => decide (x0 ≤ px.val ∧ px.val < x0 + 8 ∧ py.val = y0 + r) && row.getLsbD (7 - (px.val - x0))) canvas
      (drawRow x0 y0 r row canvas) := by
  have key : ∀ n, Draws (fun px py => decide (x0 ≤ px.val ∧ px.val < x0 + n ∧ py.val = y0 + r) &&
      row.getLsbD (7 - (px.val - x0))) canvas ((List.range n).foldl (drawPixel x0 y0 r row) canvas) := by
    intro n
    induction n with
    | zero =>
      have : (fun (px : Fin 64) (py : Fin 32) => decide (x0 ≤ px.val ∧ px.val < x0 + 0 ∧ py.val = y0 + r) &&
          row.getLsbD (7 - (px.val - x0))) = fun _ _ => false := by
        funext px py
        have : ¬ (x0 ≤ px.val ∧ px.val < x0 + 0 ∧ py.val = y0 + r) := by omega
        rw [decide_eq_false this, Bool.false_and]
      rw [this]
      exact Draws.none canvas
    | succ n ih =>
      rw [List.range_succ, List.foldl_append, List.foldl_cons, List.foldl_nil]
      have h := ih.trans (drawPixel_draws x0 y0 r row _ n) (by
        intro px py h
        simp only [Bool.and_eq_true, decide_eq_true_eq] at h
        have : ¬ (px.val = x0 + n ∧ py.val = y0 + r) := by omega
        simp [this])
      convert h using 1
      funext px py
      by_cases h1 : px.val = x0 + n ∧ py.val = y0 + r
      · simp [h1.1, h1.2]
      · have h2 : (x0 ≤ px.val ∧ px.val < x0 + (n + 1) ∧ py.val = y0 + r) ↔
            (x0 ≤ px.val ∧ px.val < x0 + n ∧ py.val = y0 + r) := by omega
        simp [h1, h2]
  exact key 8

/-- What drawing sprite rows does (R292, R293). -/
theorem drawRows_draws (x0 y0 r : Nat) (rows : List Byte) (canvas : Canvas) :
    Draws (rowsBit x0 y0 r rows) canvas (drawRows x0 y0 r rows canvas) := by
  induction rows generalizing r canvas with
  | nil =>
    have : rowsBit x0 y0 r [] = fun _ _ => false := by funext px py; simp [rowsBit]
    rw [this]
    exact Draws.none canvas
  | cons row rows ih =>
    have h := (drawRow_draws x0 y0 r row canvas).trans (ih (r + 1) (drawRow x0 y0 r row canvas)) (by
      intro px py h
      simp only [Bool.and_eq_true, decide_eq_true_eq] at h
      have : ¬ (x0 ≤ px.val ∧ px.val < x0 + 8 ∧ y0 + (r + 1) ≤ py.val) := by omega
      simp [rowsBit, this])
    unfold drawRows
    convert h using 1
    funext px py
    unfold rowsBit
    by_cases h1 : py.val = y0 + r
    · have e : py.val - (y0 + r) = 0 := by omega
      have h3 : ¬ (x0 ≤ px.val ∧ px.val < x0 + 8 ∧ y0 + (r + 1) ≤ py.val) := by omega
      have h4 : (x0 ≤ px.val ∧ px.val < x0 + 8 ∧ y0 + r ≤ py.val) ↔ (x0 ≤ px.val ∧ px.val < x0 + 8 ∧ py.val = y0 + r) := by omega
      simp [h3, e, h4]
    · have h4 : ¬ (x0 ≤ px.val ∧ px.val < x0 + 8 ∧ py.val = y0 + r) := by omega
      by_cases h5 : y0 + r ≤ py.val
      · have e : py.val - (y0 + r) = (py.val - (y0 + (r + 1))) + 1 := by omega
        have h6 : (x0 ≤ px.val ∧ px.val < x0 + 8 ∧ y0 + r ≤ py.val) ↔
            (x0 ≤ px.val ∧ px.val < x0 + 8 ∧ y0 + (r + 1) ≤ py.val) := by omega
        simp [h4, e, h6]
      · have h6 : ¬ (x0 ≤ px.val ∧ px.val < x0 + 8 ∧ y0 + r ≤ py.val) := by omega
        have h7 : ¬ (x0 ≤ px.val ∧ px.val < x0 + 8 ∧ y0 + (r + 1) ≤ py.val) := by omega
        simp [h4, h6, h7]

end Sys2Proof.Machine
end

