-- ==== Sys2Proof/Laws/Memory.lean ====
section
/-! SUPPORT. The laws of memory: a read after a write, the canonical form, and what the address checks find. -/
namespace Sys2Proof.Machine

@[simp] theorem Memory.read_nil (a : Nat) : Memory.read [] a = Memory.unlisted a := rfl

theorem Memory.unlisted_zero {a : Nat} (h : ¬ InFont a) : Memory.unlisted a = 0 := by
  simp [Memory.unlisted, h]

theorem Memory.unlisted_font {a : Nat} (h : InFont a) (h' : a - fontBase < 80) :
    Memory.unlisted a = Config.current.font[a - fontBase] := by
  rw [Memory.unlisted, dif_pos h]

theorem Memory.read_insertCell (m : Memory) (a : Nat) (b : Byte) (c : Nat) :
    Memory.read (Memory.insertCell m a b) c = if c = a then b else Memory.read m c := by
  induction m with
  | nil => simp [Memory.insertCell, Memory.read, eq_comm]
  | cons d m ih =>
    unfold Memory.insertCell
    split
    · simp only [Memory.read, ih]
      split <;> split <;> first | rfl | omega
    · split <;> (simp only [Memory.read]; repeat' split) <;> first | rfl | omega

theorem Memory.read_eraseCell (m : Memory) (a c : Nat) :
    Memory.read (Memory.eraseCell m a) c = if c = a then Memory.unlisted c else Memory.read m c := by
  induction m with
  | nil => simp [Memory.eraseCell]
  | cons d m ih =>
    simp only [Memory.eraseCell] at ih ⊢
    by_cases hd : d.1 = a
    · rw [List.filter_cons_of_neg (by simp [hd]), ih, Memory.read]
      by_cases hc : c = a
      · simp [hc]
      · rw [if_neg hc, if_neg hc, if_neg (by omega)]
    · rw [List.filter_cons_of_pos (by simp [hd]), Memory.read, ih, Memory.read]
      by_cases hc : c = a
      · rw [if_pos hc, if_pos hc, if_neg (by omega)]
      · rw [if_neg hc, if_neg hc]

/-- A read after a write: the byte written at its address, what was there elsewhere. -/
theorem Memory.read_write (m : Memory) (a : Nat) (b : Byte) (c : Nat) :
    Memory.read (Memory.write m a b) c = if c = a ∧ a ≤ topAddress then b else Memory.read m c := by
  unfold Memory.write
  split
  · rw [if_neg (by omega)]
  · split
    · rename_i hb
      rw [Memory.read_eraseCell]
      by_cases hc : c = a
      · rw [if_pos hc, if_pos ⟨hc, by omega⟩, hb, hc]
      · simp [hc]
    · rw [Memory.read_insertCell]
      by_cases hc : c = a
      · rw [if_pos hc, if_pos ⟨hc, by omega⟩]
      · simp [hc]

theorem Memory.read_write_same (m : Memory) {a : Nat} (b : Byte) (h : a ≤ topAddress) :
    Memory.read (Memory.write m a b) a = b := by rw [Memory.read_write, if_pos ⟨rfl, h⟩]

theorem Memory.read_write_other (m : Memory) {a c : Nat} (b : Byte) (h : c ≠ a) :
    Memory.read (Memory.write m a b) c = Memory.read m c := by rw [Memory.read_write, if_neg (fun e => h e.1)]

/-- A read after a block write. -/
theorem Memory.read_writeBytes (m : Memory) (a : Nat) (bs : List Byte) (c : Nat) :
    Memory.read (Memory.writeBytes m a bs) c =
      if h : a ≤ c ∧ c < a + bs.length ∧ c ≤ topAddress then bs[c - a]'(by omega) else Memory.read m c := by
  induction bs generalizing m a with
  | nil => rw [dif_neg (by simp; omega)]; rfl
  | cons b bs ih =>
    rw [Memory.writeBytes, ih]
    by_cases h1 : a + 1 ≤ c ∧ c < a + 1 + bs.length ∧ c ≤ topAddress
    · rw [dif_pos h1, dif_pos (by simp only [List.length_cons]; omega)]
      have : c - a = (c - (a + 1)) + 1 := by omega
      simp [this]
    · rw [dif_neg h1, Memory.read_write]
      by_cases hc : c = a ∧ a ≤ topAddress
      · rw [if_pos hc, dif_pos (by simp only [List.length_cons]; omega)]
        simp [hc.1]
      · rw [if_neg hc, dif_neg (by simp only [List.length_cons]; omega)]

theorem Memory.read_writeIf (m : Memory) (a : Nat) (b : Option Byte) (c : Nat) :
    Memory.read (Memory.writeIf m a b) c = if c = a ∧ a ≤ topAddress then b.getD (Memory.read m c) else Memory.read m c := by
  cases b with
  | none => simp [Memory.writeIf]
  | some b => rw [Memory.writeIf, Memory.read_write]; rfl

/-! ## The canonical form -/

theorem Memory.wf_nil : Memory.wf [] := by simp [Memory.wf]

theorem Memory.mem_insertCell {m : Memory} {a : Nat} {b : Byte} {c : Host.Cell} (h : c ∈ Memory.insertCell m a b) :
    c = (a, b) ∨ c ∈ m := by
  induction m with
  | nil => simpa [Memory.insertCell] using h
  | cons d m ih =>
    unfold Memory.insertCell at h
    split at h
    · rcases List.mem_cons.1 h with h | h
      · exact .inr (by simp [h])
      · exact (ih h).imp_right (List.mem_cons_of_mem _)
    · split at h
      · rcases List.mem_cons.1 h with h | h
        · exact .inl h
        · exact .inr (List.mem_cons_of_mem _ h)
      · rcases List.mem_cons.1 h with h | h
        · exact .inl h
        · exact .inr h

theorem Memory.sorted_insertCell {m : Memory} (a : Nat) (b : Byte) (h : m.Pairwise (fun c d => c.1 < d.1)) :
    (Memory.insertCell m a b).Pairwise (fun c d => c.1 < d.1) := by
  induction m with
  | nil => simp [Memory.insertCell]
  | cons d m ih =>
    rw [List.pairwise_cons] at h
    unfold Memory.insertCell
    split
    · rename_i hd
      refine List.pairwise_cons.2 ⟨fun c hc => ?_, ih h.2⟩
      rcases Memory.mem_insertCell hc with rfl | hc
      · exact hd
      · exact h.1 c hc
    · split
      · rename_i hd he
        exact List.pairwise_cons.2 ⟨fun c hc => he ▸ h.1 c hc, h.2⟩
      · rename_i hd he
        refine List.pairwise_cons.2 ⟨fun c hc => ?_, List.pairwise_cons.2 h⟩
        rcases List.mem_cons.1 hc with rfl | hc
        · show a < _; omega
        · have := h.1 c hc
          show a < _; omega

/-- A write keeps the canonical form. -/
theorem Memory.wf_write {m : Memory} (a : Nat) (b : Byte) (h : Memory.wf m) : Memory.wf (Memory.write m a b) := by
  unfold Memory.write
  split
  · exact h
  · split
    · exact ⟨h.1.filter _, fun c hc => h.2 c (List.mem_filter.1 hc).1⟩
    · rename_i ha hb
      refine ⟨Memory.sorted_insertCell a b h.1, fun c hc => ?_⟩
      rcases Memory.mem_insertCell hc with rfl | hc
      · exact ⟨by omega, hb⟩
      · exact h.2 c hc

theorem Memory.wf_writeBytes {m : Memory} (a : Nat) (bs : List Byte) (h : Memory.wf m) :
    Memory.wf (Memory.writeBytes m a bs) := by
  induction bs generalizing m a with
  | nil => exact h
  | cons b bs ih => exact ih _ (Memory.wf_write a b h)

theorem Memory.wf_writeIf {m : Memory} (a : Nat) (b : Option Byte) (h : Memory.wf m) : Memory.wf (Memory.writeIf m a b) := by
  cases b with
  | none => exact h
  | some b => exact Memory.wf_write a b h

/-- The cells of memory after a write are the written one and old ones. -/
theorem Memory.mem_write {m : Memory} {a : Nat} {b : Byte} {c : Host.Cell} (h : c ∈ Memory.write m a b) :
    c = (a, b) ∨ c ∈ m := by
  unfold Memory.write at h
  split at h
  · exact .inr h
  · split at h
    · exact .inr (List.mem_filter.1 h).1
    · exact Memory.mem_insertCell h

/-- A listed cell is what its address reads as. -/
theorem Memory.read_of_mem {m : Memory} {c : Host.Cell} (h : m.Pairwise (fun c d => c.1 < d.1)) (hc : c ∈ m) :
    Memory.read m c.1 = c.2 := by
  induction m with
  | nil => simp at hc
  | cons d m ih =>
    rw [List.pairwise_cons] at h
    rcases List.mem_cons.1 hc with rfl | hc
    · simp [Memory.read]
    · have := h.1 c hc
      rw [Memory.read, if_neg (by omega), ih h.2 hc]

/-! ## The address checks -/

theorem readCheck_eq_none {a : Nat} : readCheck a = none ↔ a ≤ topAddress := by
  unfold readCheck; split <;> simp <;> omega

theorem writeCheck_eq_none {a : Nat} : writeCheck a = none ↔ a ≤ topAddress ∧ ¬ InFont a := by
  unfold writeCheck; repeat' split
  · simp; omega
  · rename_i h; simp [h]
  · rename_i h1 h2; simp only [true_iff]; exact ⟨by omega, h2⟩

/-- No fault is found exactly when every address passes. -/
theorem firstFault_eq_none {check : Nat → Option FaultCode} {as : List Nat} :
    firstFault check as = none ↔ ∀ a ∈ as, check a = none := by
  induction as with
  | nil => simp [firstFault]
  | cons a as ih => unfold firstFault; split <;> simp_all

/-- The fault found is that of the first address that fails. -/
theorem firstFault_eq_some {check : Nat → Option FaultCode} {as : List Nat} {c : FaultCode} {a : Nat} :
    firstFault check as = some (c, a) ↔
      ∃ pre post, as = pre ++ a :: post ∧ (∀ b ∈ pre, check b = none) ∧ check a = some c := by
  induction as with
  | nil => simp [firstFault]
  | cons d as ih =>
    unfold firstFault
    split
    · rename_i c' hc
      constructor
      · rintro h; cases h; exact ⟨[], as, rfl, by simp, hc⟩
      · rintro ⟨pre, post, he, hp, ha⟩
        cases pre with
        | nil => simp only [List.nil_append, List.cons.injEq] at he; obtain ⟨rfl, rfl⟩ := he; simp_all
        | cons e pre => simp only [List.cons_append, List.cons.injEq] at he; obtain ⟨rfl, rfl⟩ := he; simp_all
    · rename_i hc
      rw [ih]
      constructor
      · rintro ⟨pre, post, rfl, hp, ha⟩
        refine ⟨d :: pre, post, rfl, ?_, ha⟩
        simpa [hc] using hp
      · rintro ⟨pre, post, he, hp, ha⟩
        cases pre with
        | nil => simp only [List.nil_append, List.cons.injEq] at he; obtain ⟨rfl, rfl⟩ := he; simp_all
        | cons e pre =>
          simp only [List.cons_append, List.cons.injEq] at he
          obtain ⟨rfl, rfl⟩ := he
          exact ⟨pre, post, rfl, fun b hb => hp b (List.mem_cons_of_mem _ hb), ha⟩

@[simp] theorem mem_indexSpan {i : Word} {n a : Nat} : a ∈ indexSpan i n ↔ i.toNat ≤ a ∧ a < i.toNat + n := by
  simp only [indexSpan, List.mem_map, List.mem_range]
  constructor
  · rintro ⟨k, hk, rfl⟩; omega
  · rintro ⟨h1, h2⟩; exact ⟨a - i.toNat, by omega, by omega⟩

/-- What `guarded` can answer: the guarded state when every address passes, else the first fault. -/
theorem State.guarded_cases (s : State) (check : Nat → Option FaultCode) (as : List Nat) (w : Word) (done : State) :
    ((∀ a ∈ as, check a = none) ∧ s.guarded check as w done = done) ∨
    ∃ c a, a ∈ as ∧ check a = some c ∧ firstFault check as = some (c, a) ∧
      s.guarded check as w done = s.raise c w (some a) := by
  unfold State.guarded
  split
  · rename_i c a h
    obtain ⟨pre, post, rfl, _, ha⟩ := firstFault_eq_some.1 h
    exact .inr ⟨c, a, by simp, ha, h, rfl⟩
  · rename_i h
    exact .inl ⟨firstFault_eq_none.1 h, rfl⟩

theorem State.guarded_done {s : State} {check : Nat → Option FaultCode} {as : List Nat} {w : Word} {done : State}
    (h : ∀ a ∈ as, check a = none) : s.guarded check as w done = done := by
  unfold State.guarded; rw [firstFault_eq_none.2 h]

end Sys2Proof.Machine
end

