-- ==== Sys2Proof/Laws/State.lean ====
section
/-! SUPPORT. The small lemmas of the state's updates: one per field per update, each true by rfl, so that no proof
unfolds a record update. `State.reg` after an update is in Laws/Registers.lean. -/
namespace Sys2Proof.Machine

variable (s : State)

/-! ### setReg -/

@[simp] theorem State.setReg_mem (x : Reg) (b : Byte) : (s.setReg x b).mem = s.mem := rfl
@[simp] theorem State.setReg_stack (x : Reg) (b : Byte) : (s.setReg x b).stack = s.stack := rfl
@[simp] theorem State.setReg_sp (x : Reg) (b : Byte) : (s.setReg x b).sp = s.sp := rfl
@[simp] theorem State.setReg_pc (x : Reg) (b : Byte) : (s.setReg x b).pc = s.pc := rfl
@[simp] theorem State.setReg_i (x : Reg) (b : Byte) : (s.setReg x b).i = s.i := rfl
@[simp] theorem State.setReg_v (x : Reg) (b : Byte) : (s.setReg x b).v = s.v.set x b := rfl
@[simp] theorem State.setReg_fb (x : Reg) (b : Byte) : (s.setReg x b).fb = s.fb := rfl
@[simp] theorem State.setReg_snd (x : Reg) (b : Byte) : (s.setReg x b).snd = s.snd := rfl
@[simp] theorem State.setReg_keys (x : Reg) (b : Byte) : (s.setReg x b).keys = s.keys := rfl
@[simp] theorem State.setReg_dt (x : Reg) (b : Byte) : (s.setReg x b).dt = s.dt := rfl
@[simp] theorem State.setReg_st (x : Reg) (b : Byte) : (s.setReg x b).st = s.st := rfl
@[simp] theorem State.setReg_halt (x : Reg) (b : Byte) : (s.setReg x b).halt = s.halt := rfl
@[simp] theorem State.setReg_input (x : Reg) (b : Byte) : (s.setReg x b).input = s.input := rfl
@[simp] theorem State.setReg_cycles (x : Reg) (b : Byte) : (s.setReg x b).cycles = s.cycles := rfl
@[simp] theorem State.setReg_pending (x : Reg) (b : Byte) : (s.setReg x b).pending = s.pending := rfl

/-! ### setRegs -/

@[simp] theorem State.setRegs_mem (v : Vector Byte 16) : (s.setRegs v).mem = s.mem := rfl
@[simp] theorem State.setRegs_stack (v : Vector Byte 16) : (s.setRegs v).stack = s.stack := rfl
@[simp] theorem State.setRegs_sp (v : Vector Byte 16) : (s.setRegs v).sp = s.sp := rfl
@[simp] theorem State.setRegs_pc (v : Vector Byte 16) : (s.setRegs v).pc = s.pc := rfl
@[simp] theorem State.setRegs_i (v : Vector Byte 16) : (s.setRegs v).i = s.i := rfl
@[simp] theorem State.setRegs_v (v : Vector Byte 16) : (s.setRegs v).v = v := rfl
@[simp] theorem State.setRegs_fb (v : Vector Byte 16) : (s.setRegs v).fb = s.fb := rfl
@[simp] theorem State.setRegs_snd (v : Vector Byte 16) : (s.setRegs v).snd = s.snd := rfl
@[simp] theorem State.setRegs_keys (v : Vector Byte 16) : (s.setRegs v).keys = s.keys := rfl
@[simp] theorem State.setRegs_dt (v : Vector Byte 16) : (s.setRegs v).dt = s.dt := rfl
@[simp] theorem State.setRegs_st (v : Vector Byte 16) : (s.setRegs v).st = s.st := rfl
@[simp] theorem State.setRegs_halt (v : Vector Byte 16) : (s.setRegs v).halt = s.halt := rfl
@[simp] theorem State.setRegs_input (v : Vector Byte 16) : (s.setRegs v).input = s.input := rfl
@[simp] theorem State.setRegs_cycles (v : Vector Byte 16) : (s.setRegs v).cycles = s.cycles := rfl
@[simp] theorem State.setRegs_pending (v : Vector Byte 16) : (s.setRegs v).pending = s.pending := rfl

/-! ### setPc -/

@[simp] theorem State.setPc_mem (p : Word) : (s.setPc p).mem = s.mem := rfl
@[simp] theorem State.setPc_stack (p : Word) : (s.setPc p).stack = s.stack := rfl
@[simp] theorem State.setPc_sp (p : Word) : (s.setPc p).sp = s.sp := rfl
@[simp] theorem State.setPc_pc (p : Word) : (s.setPc p).pc = p := rfl
@[simp] theorem State.setPc_i (p : Word) : (s.setPc p).i = s.i := rfl
@[simp] theorem State.setPc_v (p : Word) : (s.setPc p).v = s.v := rfl
@[simp] theorem State.setPc_fb (p : Word) : (s.setPc p).fb = s.fb := rfl
@[simp] theorem State.setPc_snd (p : Word) : (s.setPc p).snd = s.snd := rfl
@[simp] theorem State.setPc_keys (p : Word) : (s.setPc p).keys = s.keys := rfl
@[simp] theorem State.setPc_dt (p : Word) : (s.setPc p).dt = s.dt := rfl
@[simp] theorem State.setPc_st (p : Word) : (s.setPc p).st = s.st := rfl
@[simp] theorem State.setPc_halt (p : Word) : (s.setPc p).halt = s.halt := rfl
@[simp] theorem State.setPc_input (p : Word) : (s.setPc p).input = s.input := rfl
@[simp] theorem State.setPc_cycles (p : Word) : (s.setPc p).cycles = s.cycles := rfl
@[simp] theorem State.setPc_pending (p : Word) : (s.setPc p).pending = s.pending := rfl

/-! ### setI -/

@[simp] theorem State.setI_mem (w : Word) : (s.setI w).mem = s.mem := rfl
@[simp] theorem State.setI_stack (w : Word) : (s.setI w).stack = s.stack := rfl
@[simp] theorem State.setI_sp (w : Word) : (s.setI w).sp = s.sp := rfl
@[simp] theorem State.setI_pc (w : Word) : (s.setI w).pc = s.pc := rfl
@[simp] theorem State.setI_i (w : Word) : (s.setI w).i = w := rfl
@[simp] theorem State.setI_v (w : Word) : (s.setI w).v = s.v := rfl
@[simp] theorem State.setI_fb (w : Word) : (s.setI w).fb = s.fb := rfl
@[simp] theorem State.setI_snd (w : Word) : (s.setI w).snd = s.snd := rfl
@[simp] theorem State.setI_keys (w : Word) : (s.setI w).keys = s.keys := rfl
@[simp] theorem State.setI_dt (w : Word) : (s.setI w).dt = s.dt := rfl
@[simp] theorem State.setI_st (w : Word) : (s.setI w).st = s.st := rfl
@[simp] theorem State.setI_halt (w : Word) : (s.setI w).halt = s.halt := rfl
@[simp] theorem State.setI_input (w : Word) : (s.setI w).input = s.input := rfl
@[simp] theorem State.setI_cycles (w : Word) : (s.setI w).cycles = s.cycles := rfl
@[simp] theorem State.setI_pending (w : Word) : (s.setI w).pending = s.pending := rfl

/-! ### setMem -/

@[simp] theorem State.setMem_mem (m : Memory) : (s.setMem m).mem = m := rfl
@[simp] theorem State.setMem_stack (m : Memory) : (s.setMem m).stack = s.stack := rfl
@[simp] theorem State.setMem_sp (m : Memory) : (s.setMem m).sp = s.sp := rfl
@[simp] theorem State.setMem_pc (m : Memory) : (s.setMem m).pc = s.pc := rfl
@[simp] theorem State.setMem_i (m : Memory) : (s.setMem m).i = s.i := rfl
@[simp] theorem State.setMem_v (m : Memory) : (s.setMem m).v = s.v := rfl
@[simp] theorem State.setMem_fb (m : Memory) : (s.setMem m).fb = s.fb := rfl
@[simp] theorem State.setMem_snd (m : Memory) : (s.setMem m).snd = s.snd := rfl
@[simp] theorem State.setMem_keys (m : Memory) : (s.setMem m).keys = s.keys := rfl
@[simp] theorem State.setMem_dt (m : Memory) : (s.setMem m).dt = s.dt := rfl
@[simp] theorem State.setMem_st (m : Memory) : (s.setMem m).st = s.st := rfl
@[simp] theorem State.setMem_halt (m : Memory) : (s.setMem m).halt = s.halt := rfl
@[simp] theorem State.setMem_input (m : Memory) : (s.setMem m).input = s.input := rfl
@[simp] theorem State.setMem_cycles (m : Memory) : (s.setMem m).cycles = s.cycles := rfl
@[simp] theorem State.setMem_pending (m : Memory) : (s.setMem m).pending = s.pending := rfl

/-! ### setFb -/

@[simp] theorem State.setFb_mem (f : Framebuffer) : (s.setFb f).mem = s.mem := rfl
@[simp] theorem State.setFb_stack (f : Framebuffer) : (s.setFb f).stack = s.stack := rfl
@[simp] theorem State.setFb_sp (f : Framebuffer) : (s.setFb f).sp = s.sp := rfl
@[simp] theorem State.setFb_pc (f : Framebuffer) : (s.setFb f).pc = s.pc := rfl
@[simp] theorem State.setFb_i (f : Framebuffer) : (s.setFb f).i = s.i := rfl
@[simp] theorem State.setFb_v (f : Framebuffer) : (s.setFb f).v = s.v := rfl
@[simp] theorem State.setFb_fb (f : Framebuffer) : (s.setFb f).fb = f := rfl
@[simp] theorem State.setFb_snd (f : Framebuffer) : (s.setFb f).snd = s.snd := rfl
@[simp] theorem State.setFb_keys (f : Framebuffer) : (s.setFb f).keys = s.keys := rfl
@[simp] theorem State.setFb_dt (f : Framebuffer) : (s.setFb f).dt = s.dt := rfl
@[simp] theorem State.setFb_st (f : Framebuffer) : (s.setFb f).st = s.st := rfl
@[simp] theorem State.setFb_halt (f : Framebuffer) : (s.setFb f).halt = s.halt := rfl
@[simp] theorem State.setFb_input (f : Framebuffer) : (s.setFb f).input = s.input := rfl
@[simp] theorem State.setFb_cycles (f : Framebuffer) : (s.setFb f).cycles = s.cycles := rfl
@[simp] theorem State.setFb_pending (f : Framebuffer) : (s.setFb f).pending = s.pending := rfl

/-! ### setSnd -/

@[simp] theorem State.setSnd_mem (b : Bool) : (s.setSnd b).mem = s.mem := rfl
@[simp] theorem State.setSnd_stack (b : Bool) : (s.setSnd b).stack = s.stack := rfl
@[simp] theorem State.setSnd_sp (b : Bool) : (s.setSnd b).sp = s.sp := rfl
@[simp] theorem State.setSnd_pc (b : Bool) : (s.setSnd b).pc = s.pc := rfl
@[simp] theorem State.setSnd_i (b : Bool) : (s.setSnd b).i = s.i := rfl
@[simp] theorem State.setSnd_v (b : Bool) : (s.setSnd b).v = s.v := rfl
@[simp] theorem State.setSnd_fb (b : Bool) : (s.setSnd b).fb = s.fb := rfl
@[simp] theorem State.setSnd_snd (b : Bool) : (s.setSnd b).snd = b := rfl
@[simp] theorem State.setSnd_keys (b : Bool) : (s.setSnd b).keys = s.keys := rfl
@[simp] theorem State.setSnd_dt (b : Bool) : (s.setSnd b).dt = s.dt := rfl
@[simp] theorem State.setSnd_st (b : Bool) : (s.setSnd b).st = s.st := rfl
@[simp] theorem State.setSnd_halt (b : Bool) : (s.setSnd b).halt = s.halt := rfl
@[simp] theorem State.setSnd_input (b : Bool) : (s.setSnd b).input = s.input := rfl
@[simp] theorem State.setSnd_cycles (b : Bool) : (s.setSnd b).cycles = s.cycles := rfl
@[simp] theorem State.setSnd_pending (b : Bool) : (s.setSnd b).pending = s.pending := rfl

/-! ### setKeys -/

@[simp] theorem State.setKeys_mem (k : BitVec 16) : (s.setKeys k).mem = s.mem := rfl
@[simp] theorem State.setKeys_stack (k : BitVec 16) : (s.setKeys k).stack = s.stack := rfl
@[simp] theorem State.setKeys_sp (k : BitVec 16) : (s.setKeys k).sp = s.sp := rfl
@[simp] theorem State.setKeys_pc (k : BitVec 16) : (s.setKeys k).pc = s.pc := rfl
@[simp] theorem State.setKeys_i (k : BitVec 16) : (s.setKeys k).i = s.i := rfl
@[simp] theorem State.setKeys_v (k : BitVec 16) : (s.setKeys k).v = s.v := rfl
@[simp] theorem State.setKeys_fb (k : BitVec 16) : (s.setKeys k).fb = s.fb := rfl
@[simp] theorem State.setKeys_snd (k : BitVec 16) : (s.setKeys k).snd = s.snd := rfl
@[simp] theorem State.setKeys_keys (k : BitVec 16) : (s.setKeys k).keys = k := rfl
@[simp] theorem State.setKeys_dt (k : BitVec 16) : (s.setKeys k).dt = s.dt := rfl
@[simp] theorem State.setKeys_st (k : BitVec 16) : (s.setKeys k).st = s.st := rfl
@[simp] theorem State.setKeys_halt (k : BitVec 16) : (s.setKeys k).halt = s.halt := rfl
@[simp] theorem State.setKeys_input (k : BitVec 16) : (s.setKeys k).input = s.input := rfl
@[simp] theorem State.setKeys_cycles (k : BitVec 16) : (s.setKeys k).cycles = s.cycles := rfl
@[simp] theorem State.setKeys_pending (k : BitVec 16) : (s.setKeys k).pending = s.pending := rfl

/-! ### setDt -/

@[simp] theorem State.setDt_mem (t : Timer) : (s.setDt t).mem = s.mem := rfl
@[simp] theorem State.setDt_stack (t : Timer) : (s.setDt t).stack = s.stack := rfl
@[simp] theorem State.setDt_sp (t : Timer) : (s.setDt t).sp = s.sp := rfl
@[simp] theorem State.setDt_pc (t : Timer) : (s.setDt t).pc = s.pc := rfl
@[simp] theorem State.setDt_i (t : Timer) : (s.setDt t).i = s.i := rfl
@[simp] theorem State.setDt_v (t : Timer) : (s.setDt t).v = s.v := rfl
@[simp] theorem State.setDt_fb (t : Timer) : (s.setDt t).fb = s.fb := rfl
@[simp] theorem State.setDt_snd (t : Timer) : (s.setDt t).snd = s.snd := rfl
@[simp] theorem State.setDt_keys (t : Timer) : (s.setDt t).keys = s.keys := rfl
@[simp] theorem State.setDt_dt (t : Timer) : (s.setDt t).dt = t := rfl
@[simp] theorem State.setDt_st (t : Timer) : (s.setDt t).st = s.st := rfl
@[simp] theorem State.setDt_halt (t : Timer) : (s.setDt t).halt = s.halt := rfl
@[simp] theorem State.setDt_input (t : Timer) : (s.setDt t).input = s.input := rfl
@[simp] theorem State.setDt_cycles (t : Timer) : (s.setDt t).cycles = s.cycles := rfl
@[simp] theorem State.setDt_pending (t : Timer) : (s.setDt t).pending = s.pending := rfl

/-! ### setSt -/

@[simp] theorem State.setSt_mem (t : Timer) : (s.setSt t).mem = s.mem := rfl
@[simp] theorem State.setSt_stack (t : Timer) : (s.setSt t).stack = s.stack := rfl
@[simp] theorem State.setSt_sp (t : Timer) : (s.setSt t).sp = s.sp := rfl
@[simp] theorem State.setSt_pc (t : Timer) : (s.setSt t).pc = s.pc := rfl
@[simp] theorem State.setSt_i (t : Timer) : (s.setSt t).i = s.i := rfl
@[simp] theorem State.setSt_v (t : Timer) : (s.setSt t).v = s.v := rfl
@[simp] theorem State.setSt_fb (t : Timer) : (s.setSt t).fb = s.fb := rfl
@[simp] theorem State.setSt_snd (t : Timer) : (s.setSt t).snd = s.snd := rfl
@[simp] theorem State.setSt_keys (t : Timer) : (s.setSt t).keys = s.keys := rfl
@[simp] theorem State.setSt_dt (t : Timer) : (s.setSt t).dt = s.dt := rfl
@[simp] theorem State.setSt_st (t : Timer) : (s.setSt t).st = t := rfl
@[simp] theorem State.setSt_halt (t : Timer) : (s.setSt t).halt = s.halt := rfl
@[simp] theorem State.setSt_input (t : Timer) : (s.setSt t).input = s.input := rfl
@[simp] theorem State.setSt_cycles (t : Timer) : (s.setSt t).cycles = s.cycles := rfl
@[simp] theorem State.setSt_pending (t : Timer) : (s.setSt t).pending = s.pending := rfl

/-! ### setInput -/

@[simp] theorem State.setInput_mem (c : CycleInput) : (s.setInput c).mem = s.mem := rfl
@[simp] theorem State.setInput_stack (c : CycleInput) : (s.setInput c).stack = s.stack := rfl
@[simp] theorem State.setInput_sp (c : CycleInput) : (s.setInput c).sp = s.sp := rfl
@[simp] theorem State.setInput_pc (c : CycleInput) : (s.setInput c).pc = s.pc := rfl
@[simp] theorem State.setInput_i (c : CycleInput) : (s.setInput c).i = s.i := rfl
@[simp] theorem State.setInput_v (c : CycleInput) : (s.setInput c).v = s.v := rfl
@[simp] theorem State.setInput_fb (c : CycleInput) : (s.setInput c).fb = s.fb := rfl
@[simp] theorem State.setInput_snd (c : CycleInput) : (s.setInput c).snd = s.snd := rfl
@[simp] theorem State.setInput_keys (c : CycleInput) : (s.setInput c).keys = s.keys := rfl
@[simp] theorem State.setInput_dt (c : CycleInput) : (s.setInput c).dt = s.dt := rfl
@[simp] theorem State.setInput_st (c : CycleInput) : (s.setInput c).st = s.st := rfl
@[simp] theorem State.setInput_halt (c : CycleInput) : (s.setInput c).halt = s.halt := rfl
@[simp] theorem State.setInput_input (c : CycleInput) : (s.setInput c).input = c := rfl
@[simp] theorem State.setInput_cycles (c : CycleInput) : (s.setInput c).cycles = s.cycles := rfl
@[simp] theorem State.setInput_pending (c : CycleInput) : (s.setInput c).pending = s.pending := rfl

/-! ### skipIf -/

@[simp] theorem State.skipIf_mem (b : Bool) : (s.skipIf b).mem = s.mem := rfl
@[simp] theorem State.skipIf_stack (b : Bool) : (s.skipIf b).stack = s.stack := rfl
@[simp] theorem State.skipIf_sp (b : Bool) : (s.skipIf b).sp = s.sp := rfl
@[simp] theorem State.skipIf_pc (b : Bool) : (s.skipIf b).pc = if b then s.pc + 2 else s.pc := rfl
@[simp] theorem State.skipIf_i (b : Bool) : (s.skipIf b).i = s.i := rfl
@[simp] theorem State.skipIf_v (b : Bool) : (s.skipIf b).v = s.v := rfl
@[simp] theorem State.skipIf_fb (b : Bool) : (s.skipIf b).fb = s.fb := rfl
@[simp] theorem State.skipIf_snd (b : Bool) : (s.skipIf b).snd = s.snd := rfl
@[simp] theorem State.skipIf_keys (b : Bool) : (s.skipIf b).keys = s.keys := rfl
@[simp] theorem State.skipIf_dt (b : Bool) : (s.skipIf b).dt = s.dt := rfl
@[simp] theorem State.skipIf_st (b : Bool) : (s.skipIf b).st = s.st := rfl
@[simp] theorem State.skipIf_halt (b : Bool) : (s.skipIf b).halt = s.halt := rfl
@[simp] theorem State.skipIf_input (b : Bool) : (s.skipIf b).input = s.input := rfl
@[simp] theorem State.skipIf_cycles (b : Bool) : (s.skipIf b).cycles = s.cycles := rfl
@[simp] theorem State.skipIf_pending (b : Bool) : (s.skipIf b).pending = s.pending := rfl

/-! ### push -/

@[simp] theorem State.push_mem (w : Word) (h : s.sp.val < 16) : (s.push w h).mem = s.mem := rfl
@[simp] theorem State.push_stack (w : Word) (h : s.sp.val < 16) : (s.push w h).stack = s.stack.set s.sp.val w h := rfl
@[simp] theorem State.push_sp (w : Word) (h : s.sp.val < 16) : (s.push w h).sp = ⟨s.sp.val + 1, by omega⟩ := rfl
@[simp] theorem State.push_pc (w : Word) (h : s.sp.val < 16) : (s.push w h).pc = s.pc := rfl
@[simp] theorem State.push_i (w : Word) (h : s.sp.val < 16) : (s.push w h).i = s.i := rfl
@[simp] theorem State.push_v (w : Word) (h : s.sp.val < 16) : (s.push w h).v = s.v := rfl
@[simp] theorem State.push_fb (w : Word) (h : s.sp.val < 16) : (s.push w h).fb = s.fb := rfl
@[simp] theorem State.push_snd (w : Word) (h : s.sp.val < 16) : (s.push w h).snd = s.snd := rfl
@[simp] theorem State.push_keys (w : Word) (h : s.sp.val < 16) : (s.push w h).keys = s.keys := rfl
@[simp] theorem State.push_dt (w : Word) (h : s.sp.val < 16) : (s.push w h).dt = s.dt := rfl
@[simp] theorem State.push_st (w : Word) (h : s.sp.val < 16) : (s.push w h).st = s.st := rfl
@[simp] theorem State.push_halt (w : Word) (h : s.sp.val < 16) : (s.push w h).halt = s.halt := rfl
@[simp] theorem State.push_input (w : Word) (h : s.sp.val < 16) : (s.push w h).input = s.input := rfl
@[simp] theorem State.push_cycles (w : Word) (h : s.sp.val < 16) : (s.push w h).cycles = s.cycles := rfl
@[simp] theorem State.push_pending (w : Word) (h : s.sp.val < 16) : (s.push w h).pending = s.pending := rfl

/-! ### drop -/

@[simp] theorem State.drop_mem (h : 0 < s.sp.val) : (s.drop h).mem = s.mem := rfl
@[simp] theorem State.drop_stack (h : 0 < s.sp.val) : (s.drop h).stack = s.stack := rfl
@[simp] theorem State.drop_sp (h : 0 < s.sp.val) : (s.drop h).sp = ⟨s.sp.val - 1, by omega⟩ := rfl
@[simp] theorem State.drop_pc (h : 0 < s.sp.val) : (s.drop h).pc = s.pc := rfl
@[simp] theorem State.drop_i (h : 0 < s.sp.val) : (s.drop h).i = s.i := rfl
@[simp] theorem State.drop_v (h : 0 < s.sp.val) : (s.drop h).v = s.v := rfl
@[simp] theorem State.drop_fb (h : 0 < s.sp.val) : (s.drop h).fb = s.fb := rfl
@[simp] theorem State.drop_snd (h : 0 < s.sp.val) : (s.drop h).snd = s.snd := rfl
@[simp] theorem State.drop_keys (h : 0 < s.sp.val) : (s.drop h).keys = s.keys := rfl
@[simp] theorem State.drop_dt (h : 0 < s.sp.val) : (s.drop h).dt = s.dt := rfl
@[simp] theorem State.drop_st (h : 0 < s.sp.val) : (s.drop h).st = s.st := rfl
@[simp] theorem State.drop_halt (h : 0 < s.sp.val) : (s.drop h).halt = s.halt := rfl
@[simp] theorem State.drop_input (h : 0 < s.sp.val) : (s.drop h).input = s.input := rfl
@[simp] theorem State.drop_cycles (h : 0 < s.sp.val) : (s.drop h).cycles = s.cycles := rfl
@[simp] theorem State.drop_pending (h : 0 < s.sp.val) : (s.drop h).pending = s.pending := rfl

/-! ### takeFault -/

@[simp] theorem State.takeFault_mem (r : HaltRecord) : (s.takeFault r).mem = s.mem := rfl
@[simp] theorem State.takeFault_stack (r : HaltRecord) : (s.takeFault r).stack = s.stack := rfl
@[simp] theorem State.takeFault_sp (r : HaltRecord) : (s.takeFault r).sp = s.sp := rfl
@[simp] theorem State.takeFault_pc (r : HaltRecord) : (s.takeFault r).pc = s.pc := rfl
@[simp] theorem State.takeFault_i (r : HaltRecord) : (s.takeFault r).i = s.i := rfl
@[simp] theorem State.takeFault_v (r : HaltRecord) : (s.takeFault r).v = s.v := rfl
@[simp] theorem State.takeFault_fb (r : HaltRecord) : (s.takeFault r).fb = s.fb := rfl
@[simp] theorem State.takeFault_snd (r : HaltRecord) : (s.takeFault r).snd = s.snd := rfl
@[simp] theorem State.takeFault_keys (r : HaltRecord) : (s.takeFault r).keys = s.keys := rfl
@[simp] theorem State.takeFault_dt (r : HaltRecord) : (s.takeFault r).dt = s.dt := rfl
@[simp] theorem State.takeFault_st (r : HaltRecord) : (s.takeFault r).st = s.st := rfl
@[simp] theorem State.takeFault_halt (r : HaltRecord) : (s.takeFault r).halt = some r := rfl
@[simp] theorem State.takeFault_input (r : HaltRecord) : (s.takeFault r).input = s.input := rfl
@[simp] theorem State.takeFault_cycles (r : HaltRecord) : (s.takeFault r).cycles = s.cycles := rfl
@[simp] theorem State.takeFault_pending (r : HaltRecord) : (s.takeFault r).pending = s.pending := rfl

/-! ### raise -/

@[simp] theorem State.raise_mem (c : FaultCode) (w : Word) (a : Option Nat) : (s.raise c w a).mem = s.mem := rfl
@[simp] theorem State.raise_stack (c : FaultCode) (w : Word) (a : Option Nat) : (s.raise c w a).stack = s.stack := rfl
@[simp] theorem State.raise_sp (c : FaultCode) (w : Word) (a : Option Nat) : (s.raise c w a).sp = s.sp := rfl
@[simp] theorem State.raise_pc (c : FaultCode) (w : Word) (a : Option Nat) : (s.raise c w a).pc = s.pc := rfl
@[simp] theorem State.raise_i (c : FaultCode) (w : Word) (a : Option Nat) : (s.raise c w a).i = s.i := rfl
@[simp] theorem State.raise_v (c : FaultCode) (w : Word) (a : Option Nat) : (s.raise c w a).v = s.v := rfl
@[simp] theorem State.raise_fb (c : FaultCode) (w : Word) (a : Option Nat) : (s.raise c w a).fb = s.fb := rfl
@[simp] theorem State.raise_snd (c : FaultCode) (w : Word) (a : Option Nat) : (s.raise c w a).snd = s.snd := rfl
@[simp] theorem State.raise_keys (c : FaultCode) (w : Word) (a : Option Nat) : (s.raise c w a).keys = s.keys := rfl
@[simp] theorem State.raise_dt (c : FaultCode) (w : Word) (a : Option Nat) : (s.raise c w a).dt = s.dt := rfl
@[simp] theorem State.raise_st (c : FaultCode) (w : Word) (a : Option Nat) : (s.raise c w a).st = s.st := rfl
@[simp] theorem State.raise_halt (c : FaultCode) (w : Word) (a : Option Nat) : (s.raise c w a).halt = some ⟨c, s.pc - 2, some w, a⟩ := rfl
@[simp] theorem State.raise_input (c : FaultCode) (w : Word) (a : Option Nat) : (s.raise c w a).input = s.input := rfl
@[simp] theorem State.raise_cycles (c : FaultCode) (w : Word) (a : Option Nat) : (s.raise c w a).cycles = s.cycles := rfl
@[simp] theorem State.raise_pending (c : FaultCode) (w : Word) (a : Option Nat) : (s.raise c w a).pending = s.pending := rfl

/-! ### setResultFlag -/

@[simp] theorem State.setResultFlag_mem (x : Reg) (r : Byte) (f : Bool) : (s.setResultFlag x r f).mem = s.mem := rfl
@[simp] theorem State.setResultFlag_stack (x : Reg) (r : Byte) (f : Bool) : (s.setResultFlag x r f).stack = s.stack := rfl
@[simp] theorem State.setResultFlag_sp (x : Reg) (r : Byte) (f : Bool) : (s.setResultFlag x r f).sp = s.sp := rfl
@[simp] theorem State.setResultFlag_pc (x : Reg) (r : Byte) (f : Bool) : (s.setResultFlag x r f).pc = s.pc := rfl
@[simp] theorem State.setResultFlag_i (x : Reg) (r : Byte) (f : Bool) : (s.setResultFlag x r f).i = s.i := rfl
@[simp] theorem State.setResultFlag_v (x : Reg) (r : Byte) (f : Bool) : (s.setResultFlag x r f).v = writeResultFlag Config.current.vfAliasPolicy s.input.vfTakesFlag s.v x r f := rfl
@[simp] theorem State.setResultFlag_fb (x : Reg) (r : Byte) (f : Bool) : (s.setResultFlag x r f).fb = s.fb := rfl
@[simp] theorem State.setResultFlag_snd (x : Reg) (r : Byte) (f : Bool) : (s.setResultFlag x r f).snd = s.snd := rfl
@[simp] theorem State.setResultFlag_keys (x : Reg) (r : Byte) (f : Bool) : (s.setResultFlag x r f).keys = s.keys := rfl
@[simp] theorem State.setResultFlag_dt (x : Reg) (r : Byte) (f : Bool) : (s.setResultFlag x r f).dt = s.dt := rfl
@[simp] theorem State.setResultFlag_st (x : Reg) (r : Byte) (f : Bool) : (s.setResultFlag x r f).st = s.st := rfl
@[simp] theorem State.setResultFlag_halt (x : Reg) (r : Byte) (f : Bool) : (s.setResultFlag x r f).halt = s.halt := rfl
@[simp] theorem State.setResultFlag_input (x : Reg) (r : Byte) (f : Bool) : (s.setResultFlag x r f).input = s.input := rfl
@[simp] theorem State.setResultFlag_cycles (x : Reg) (r : Byte) (f : Bool) : (s.setResultFlag x r f).cycles = s.cycles := rfl
@[simp] theorem State.setResultFlag_pending (x : Reg) (r : Byte) (f : Bool) : (s.setResultFlag x r f).pending = s.pending := rfl

/-! ### hostOp -/

@[simp] theorem State.hostOp_mem (op : HostOp) : (s.hostOp op).mem = s.mem := rfl
@[simp] theorem State.hostOp_stack (op : HostOp) : (s.hostOp op).stack = s.stack := rfl
@[simp] theorem State.hostOp_sp (op : HostOp) : (s.hostOp op).sp = s.sp := rfl
@[simp] theorem State.hostOp_pc (op : HostOp) : (s.hostOp op).pc = s.pc := rfl
@[simp] theorem State.hostOp_i (op : HostOp) : (s.hostOp op).i = s.i := rfl
@[simp] theorem State.hostOp_v (op : HostOp) : (s.hostOp op).v = s.v := rfl
@[simp] theorem State.hostOp_fb (op : HostOp) : (s.hostOp op).fb = s.fb := rfl
@[simp] theorem State.hostOp_snd (op : HostOp) : (s.hostOp op).snd = sndAfter s.st s.snd op := rfl
@[simp] theorem State.hostOp_keys (op : HostOp) : (s.hostOp op).keys = keysAfter s.keys op := rfl
@[simp] theorem State.hostOp_dt (op : HostOp) : (s.hostOp op).dt = s.dt := rfl
@[simp] theorem State.hostOp_st (op : HostOp) : (s.hostOp op).st = s.st := rfl
@[simp] theorem State.hostOp_halt (op : HostOp) : (s.hostOp op).halt = s.halt := rfl
@[simp] theorem State.hostOp_input (op : HostOp) : (s.hostOp op).input = s.input := rfl
@[simp] theorem State.hostOp_cycles (op : HostOp) : (s.hostOp op).cycles = s.cycles := rfl
@[simp] theorem State.hostOp_pending (op : HostOp) : (s.hostOp op).pending = s.pending := rfl

/-! ### hostOps -/

@[simp] theorem State.hostOps_mem (ops : List HostOp) : (s.hostOps ops).mem = s.mem := rfl
@[simp] theorem State.hostOps_stack (ops : List HostOp) : (s.hostOps ops).stack = s.stack := rfl
@[simp] theorem State.hostOps_sp (ops : List HostOp) : (s.hostOps ops).sp = s.sp := rfl
@[simp] theorem State.hostOps_pc (ops : List HostOp) : (s.hostOps ops).pc = s.pc := rfl
@[simp] theorem State.hostOps_i (ops : List HostOp) : (s.hostOps ops).i = s.i := rfl
@[simp] theorem State.hostOps_v (ops : List HostOp) : (s.hostOps ops).v = s.v := rfl
@[simp] theorem State.hostOps_fb (ops : List HostOp) : (s.hostOps ops).fb = s.fb := rfl
@[simp] theorem State.hostOps_snd (ops : List HostOp) : (s.hostOps ops).snd = ops.foldl (sndAfter s.st) s.snd := rfl
@[simp] theorem State.hostOps_keys (ops : List HostOp) : (s.hostOps ops).keys = ops.foldl keysAfter s.keys := rfl
@[simp] theorem State.hostOps_dt (ops : List HostOp) : (s.hostOps ops).dt = s.dt := rfl
@[simp] theorem State.hostOps_st (ops : List HostOp) : (s.hostOps ops).st = s.st := rfl
@[simp] theorem State.hostOps_halt (ops : List HostOp) : (s.hostOps ops).halt = s.halt := rfl
@[simp] theorem State.hostOps_input (ops : List HostOp) : (s.hostOps ops).input = s.input := rfl
@[simp] theorem State.hostOps_cycles (ops : List HostOp) : (s.hostOps ops).cycles = s.cycles := rfl
@[simp] theorem State.hostOps_pending (ops : List HostOp) : (s.hostOps ops).pending = s.pending := rfl

/-! ### takeTurn -/

@[simp] theorem State.takeTurn_mem : (s.takeTurn).mem = s.mem := rfl
@[simp] theorem State.takeTurn_stack : (s.takeTurn).stack = s.stack := rfl
@[simp] theorem State.takeTurn_sp : (s.takeTurn).sp = s.sp := rfl
@[simp] theorem State.takeTurn_pc : (s.takeTurn).pc = s.pc := rfl
@[simp] theorem State.takeTurn_i : (s.takeTurn).i = s.i := rfl
@[simp] theorem State.takeTurn_v : (s.takeTurn).v = s.v := rfl
@[simp] theorem State.takeTurn_fb : (s.takeTurn).fb = s.fb := rfl
@[simp] theorem State.takeTurn_snd : (s.takeTurn).snd = s.snd := rfl
@[simp] theorem State.takeTurn_keys : (s.takeTurn).keys = s.keys := rfl
@[simp] theorem State.takeTurn_dt : (s.takeTurn).dt = s.dt := rfl
@[simp] theorem State.takeTurn_st : (s.takeTurn).st = s.st := rfl
@[simp] theorem State.takeTurn_halt : (s.takeTurn).halt = s.halt := rfl
@[simp] theorem State.takeTurn_input : (s.takeTurn).input = s.input := rfl
@[simp] theorem State.takeTurn_cycles : (s.takeTurn).cycles = s.cycles + 1 := rfl
@[simp] theorem State.takeTurn_pending : (s.takeTurn).pending = s.pending.tail := rfl

/-! ### beginTurn -/

@[simp] theorem State.beginTurn_mem : (s.beginTurn).mem = s.mem := rfl
@[simp] theorem State.beginTurn_stack : (s.beginTurn).stack = s.stack := rfl
@[simp] theorem State.beginTurn_sp : (s.beginTurn).sp = s.sp := rfl
@[simp] theorem State.beginTurn_pc : (s.beginTurn).pc = s.pc := rfl
@[simp] theorem State.beginTurn_i : (s.beginTurn).i = s.i := rfl
@[simp] theorem State.beginTurn_v : (s.beginTurn).v = s.v := rfl
@[simp] theorem State.beginTurn_fb : (s.beginTurn).fb = s.fb := rfl
@[simp] theorem State.beginTurn_snd : (s.beginTurn).snd = s.nextTurn.before.foldl (sndAfter s.st) s.snd := rfl
@[simp] theorem State.beginTurn_keys : (s.beginTurn).keys = s.nextTurn.before.foldl keysAfter s.keys := rfl
@[simp] theorem State.beginTurn_dt : (s.beginTurn).dt = s.dt := rfl
@[simp] theorem State.beginTurn_st : (s.beginTurn).st = s.st := rfl
@[simp] theorem State.beginTurn_halt : (s.beginTurn).halt = s.halt := rfl
@[simp] theorem State.beginTurn_input : (s.beginTurn).input = s.input := rfl
@[simp] theorem State.beginTurn_cycles : (s.beginTurn).cycles = s.cycles + 1 := rfl
@[simp] theorem State.beginTurn_pending : (s.beginTurn).pending = s.pending.tail := rfl

/-! ### placeWord -/

@[simp] theorem State.placeWord_mem (w : Word) : (s.placeWord w).mem = Memory.writeBytes s.mem s.pc.toNat (bytesOfWord w) := rfl
@[simp] theorem State.placeWord_stack (w : Word) : (s.placeWord w).stack = s.stack := rfl
@[simp] theorem State.placeWord_sp (w : Word) : (s.placeWord w).sp = s.sp := rfl
@[simp] theorem State.placeWord_pc (w : Word) : (s.placeWord w).pc = s.pc := rfl
@[simp] theorem State.placeWord_i (w : Word) : (s.placeWord w).i = s.i := rfl
@[simp] theorem State.placeWord_v (w : Word) : (s.placeWord w).v = s.v := rfl
@[simp] theorem State.placeWord_fb (w : Word) : (s.placeWord w).fb = s.fb := rfl
@[simp] theorem State.placeWord_snd (w : Word) : (s.placeWord w).snd = s.snd := rfl
@[simp] theorem State.placeWord_keys (w : Word) : (s.placeWord w).keys = s.keys := rfl
@[simp] theorem State.placeWord_dt (w : Word) : (s.placeWord w).dt = s.dt := rfl
@[simp] theorem State.placeWord_st (w : Word) : (s.placeWord w).st = s.st := rfl
@[simp] theorem State.placeWord_halt (w : Word) : (s.placeWord w).halt = none := rfl
@[simp] theorem State.placeWord_input (w : Word) : (s.placeWord w).input = s.input := rfl
@[simp] theorem State.placeWord_cycles (w : Word) : (s.placeWord w).cycles = s.cycles := rfl
@[simp] theorem State.placeWord_pending (w : Word) : (s.placeWord w).pending = s.pending := rfl

/-! ### setIndexFlag -/

@[simp] theorem State.setIndexFlag_mem (o : AddIndexVf) (f : Bool) : (s.setIndexFlag o f).mem = s.mem := by cases o <;> rfl
@[simp] theorem State.setIndexFlag_stack (o : AddIndexVf) (f : Bool) : (s.setIndexFlag o f).stack = s.stack := by cases o <;> rfl
@[simp] theorem State.setIndexFlag_sp (o : AddIndexVf) (f : Bool) : (s.setIndexFlag o f).sp = s.sp := by cases o <;> rfl
@[simp] theorem State.setIndexFlag_pc (o : AddIndexVf) (f : Bool) : (s.setIndexFlag o f).pc = s.pc := by cases o <;> rfl
@[simp] theorem State.setIndexFlag_i (o : AddIndexVf) (f : Bool) : (s.setIndexFlag o f).i = s.i := by cases o <;> rfl
theorem State.setIndexFlag_v (o : AddIndexVf) (f : Bool) :
    (s.setIndexFlag o f).v = if o = .set then s.v.set VF (flagByte f) else s.v := by cases o <;> rfl
@[simp] theorem State.setIndexFlag_fb (o : AddIndexVf) (f : Bool) : (s.setIndexFlag o f).fb = s.fb := by cases o <;> rfl
@[simp] theorem State.setIndexFlag_snd (o : AddIndexVf) (f : Bool) : (s.setIndexFlag o f).snd = s.snd := by cases o <;> rfl
@[simp] theorem State.setIndexFlag_keys (o : AddIndexVf) (f : Bool) : (s.setIndexFlag o f).keys = s.keys := by cases o <;> rfl
@[simp] theorem State.setIndexFlag_dt (o : AddIndexVf) (f : Bool) : (s.setIndexFlag o f).dt = s.dt := by cases o <;> rfl
@[simp] theorem State.setIndexFlag_st (o : AddIndexVf) (f : Bool) : (s.setIndexFlag o f).st = s.st := by cases o <;> rfl
@[simp] theorem State.setIndexFlag_halt (o : AddIndexVf) (f : Bool) : (s.setIndexFlag o f).halt = s.halt := by cases o <;> rfl
@[simp] theorem State.setIndexFlag_input (o : AddIndexVf) (f : Bool) : (s.setIndexFlag o f).input = s.input := by cases o <;> rfl
@[simp] theorem State.setIndexFlag_cycles (o : AddIndexVf) (f : Bool) : (s.setIndexFlag o f).cycles = s.cycles := by cases o <;> rfl
@[simp] theorem State.setIndexFlag_pending (o : AddIndexVf) (f : Bool) : (s.setIndexFlag o f).pending = s.pending := by cases o <;> rfl

/-! ### the reset state -/

@[simp] theorem State.reset_mem : State.reset.mem = [] := rfl
@[simp] theorem State.reset_stack : State.reset.stack = Vector.replicate 16 0 := rfl
@[simp] theorem State.reset_sp : State.reset.sp = 0 := rfl
@[simp] theorem State.reset_pc : State.reset.pc = 0x0200 := rfl
@[simp] theorem State.reset_i : State.reset.i = 0 := rfl
@[simp] theorem State.reset_v : State.reset.v = Vector.replicate 16 0 := rfl
@[simp] theorem State.reset_fb : State.reset.fb = Vector.replicate 256 0 := rfl
@[simp] theorem State.reset_snd : State.reset.snd = false := rfl
@[simp] theorem State.reset_keys : State.reset.keys = 0 := rfl
@[simp] theorem State.reset_dt : State.reset.dt = ⟨0, 0⟩ := rfl
@[simp] theorem State.reset_st : State.reset.st = ⟨0, 0⟩ := rfl
@[simp] theorem State.reset_halt : State.reset.halt = none := rfl

end Sys2Proof.Machine
end

