-- ==== Sys2Proof/Laws/Registers.lean ====
section
/-! SUPPORT. The laws of the register bank: what a register reads after each update, after a result and flag, and
after LOAD. -/
namespace Sys2Proof.Machine

variable (s : State)

theorem State.reg_eq (x : Reg) : s.reg x = s.v[x] := rfl

@[simp] theorem State.reg_setReg (x : Reg) (b : Byte) (y : Reg) : (s.setReg x b).reg y = if y = x then b else s.reg y := by
  simp only [State.reg, State.setReg_v, Fin.getElem_fin, Vector.getElem_set]
  by_cases h : y = x
  · simp [h]
  · rw [if_neg (fun e => h (Fin.ext e.symm)), if_neg h]

theorem State.reg_setReg_same (x : Reg) (b : Byte) : (s.setReg x b).reg x = b := by simp

theorem State.reg_setReg_other {x y : Reg} (b : Byte) (h : y ≠ x) : (s.setReg x b).reg y = s.reg y := by simp [h]

@[simp] theorem State.reg_setRegs (v : Vector Byte 16) (y : Reg) : (s.setRegs v).reg y = v[y] := rfl

@[simp] theorem State.reg_setPc (p : Word) (y : Reg) : (s.setPc p).reg y = s.reg y := rfl
@[simp] theorem State.reg_setI (w : Word) (y : Reg) : (s.setI w).reg y = s.reg y := rfl
@[simp] theorem State.reg_setMem (m : Memory) (y : Reg) : (s.setMem m).reg y = s.reg y := rfl
@[simp] theorem State.reg_setFb (f : Framebuffer) (y : Reg) : (s.setFb f).reg y = s.reg y := rfl
@[simp] theorem State.reg_setSnd (b : Bool) (y : Reg) : (s.setSnd b).reg y = s.reg y := rfl
@[simp] theorem State.reg_setKeys (k : BitVec 16) (y : Reg) : (s.setKeys k).reg y = s.reg y := rfl
@[simp] theorem State.reg_setDt (t : Timer) (y : Reg) : (s.setDt t).reg y = s.reg y := rfl
@[simp] theorem State.reg_setSt (t : Timer) (y : Reg) : (s.setSt t).reg y = s.reg y := rfl
@[simp] theorem State.reg_setInput (c : CycleInput) (y : Reg) : (s.setInput c).reg y = s.reg y := rfl
@[simp] theorem State.reg_skipIf (b : Bool) (y : Reg) : (s.skipIf b).reg y = s.reg y := rfl
@[simp] theorem State.reg_push (w : Word) (h : s.sp.val < 16) (y : Reg) : (s.push w h).reg y = s.reg y := rfl
@[simp] theorem State.reg_drop (h : 0 < s.sp.val) (y : Reg) : (s.drop h).reg y = s.reg y := rfl
@[simp] theorem State.reg_takeFault (r : HaltRecord) (y : Reg) : (s.takeFault r).reg y = s.reg y := rfl
@[simp] theorem State.reg_raise (c : FaultCode) (w : Word) (a : Option Nat) (y : Reg) : (s.raise c w a).reg y = s.reg y := rfl
@[simp] theorem State.reg_hostOp (op : HostOp) (y : Reg) : (s.hostOp op).reg y = s.reg y := rfl
@[simp] theorem State.reg_hostOps (ops : List HostOp) (y : Reg) : (s.hostOps ops).reg y = s.reg y := rfl
@[simp] theorem State.reg_takeTurn (y : Reg) : (s.takeTurn).reg y = s.reg y := rfl
@[simp] theorem State.reg_beginTurn (y : Reg) : (s.beginTurn).reg y = s.reg y := rfl
@[simp] theorem State.reg_placeWord (w : Word) (y : Reg) : (s.placeWord w).reg y = s.reg y := rfl

@[simp] theorem State.reg_reset (y : Reg) : State.reset.reg y = 0 := by
  simp [State.reg, State.reset_v]

theorem State.reg_setIndexFlag (o : AddIndexVf) (f : Bool) (y : Reg) :
    (s.setIndexFlag o f).reg y = if o = .set ∧ y = VF then flagByte f else s.reg y := by
  cases o <;> simp [State.setIndexFlag]

/-- What each register holds after `WriteResultFlag`. -/
theorem writeResultFlag_get (policy : VfAliasPolicy) (takeFlag : Bool) (v : Vector Byte 16) (x : Reg) (r : Byte) (f : Bool)
    (y : Reg) :
    (writeResultFlag policy takeFlag v x r f)[y] =
      if y = VF then (if x = VF then aliasValue policy takeFlag r (flagByte f) else flagByte f)
      else if y = x then r else v[y] := by
  have key : ∀ (u : Vector Byte 16) (z : Reg) (b : Byte), (u.set z b)[y] = if y = z then b else u[y] := by
    intro u z b
    simp only [Fin.getElem_fin, Vector.getElem_set]
    by_cases h : y = z
    · simp [h]
    · rw [if_neg (fun e => h (Fin.ext e.symm)), if_neg h]
  unfold writeResultFlag
  by_cases hx : x = VF
  · subst hx
    rw [if_pos rfl, if_pos rfl]
    refine (key _ _ _).trans ?_
    by_cases hy : y = VF <;> simp [hy]
  · rw [if_neg hx, if_neg hx]
    refine (key _ _ _).trans ?_
    by_cases hy : y = VF
    · simp [hy]
    · rw [if_neg hy, if_neg hy, key]

theorem State.reg_setResultFlag (x : Reg) (r : Byte) (f : Bool) (y : Reg) :
    (s.setResultFlag x r f).reg y =
      if y = VF then (if x = VF then aliasValue Config.current.vfAliasPolicy s.input.vfTakesFlag r (flagByte f) else flagByte f)
      else if y = x then r else s.reg y := writeResultFlag_get _ _ _ _ _ _ _

/-- What each register holds after LOAD. -/
theorem loadedRegs_get (m : Memory) (i : Word) (x : Reg) (v : Vector Byte 16) (y : Reg) :
    (loadedRegs m i x v)[y] = if y ≤ x then Memory.read m (i.toNat + y.val) else v[y] := by
  simp [loadedRegs]

@[simp] theorem savedBytes_length (v : Vector Byte 16) (x : Reg) : (savedBytes v x).length = x.val + 1 := by
  simp [savedBytes]

theorem savedBytes_get (v : Vector Byte 16) (x k : Reg) (h' : k.val < (savedBytes v x).length) :
    (savedBytes v x)[k.val] = v[k] := by
  simp [savedBytes]

/-- VF is written 0 or 1. -/
theorem flagByte_toNat (f : Bool) : (flagByte f).toNat = if f then 1 else 0 := by cases f <;> rfl

/-- The low-nibble address is in the font region: 0x050..0x09B. -/
theorem charAddress_toNat (b : Byte) : (charAddress b).toNat = 0x050 + 5 * (b.toNat % 16) := by
  simp only [charAddress, fontBase, BitVec.toNat_ofNat]; omega

theorem masked12_toNat (t : Nat) : (masked12 t).toNat = t % 4096 := by
  simp only [masked12, BitVec.toNat_ofNat]; omega

theorem masked12_le (t : Nat) : (masked12 t).toNat ≤ 0xFFF := by rw [masked12_toNat]; omega

/-- The key found is down, and no lower key is. -/
theorem firstKey_eq_some {keys : BitVec 16} {k : Reg} (h : firstKey keys = some k) :
    keys.getLsbD k.val = true ∧ ∀ j : Reg, j < k → keys.getLsbD j.val = false := by
  unfold firstKey at h
  obtain ⟨hk, as, bs, he, hb⟩ := List.find?_eq_some_iff_append.1 h
  refine ⟨hk, fun j hj => ?_⟩
  have hs : (List.finRange 16).Pairwise (· < ·) := by decide
  have hm : j ∈ as ++ k :: bs := he ▸ List.mem_finRange j
  rcases List.mem_append.1 hm with hm | hm
  · simpa using hb j hm
  · rw [he] at hs
    have hkb := (List.pairwise_append.1 hs).2.1
    rcases List.mem_cons.1 hm with rfl | hm
    · exact absurd hj (lt_irrefl _)
    · exact absurd hj (lt_asymm ((List.pairwise_cons.1 hkb).1 j hm))

theorem firstKey_eq_none {keys : BitVec 16} : firstKey keys = none ↔ ∀ k : Reg, keys.getLsbD k.val = false := by
  simp [firstKey]

end Sys2Proof.Machine
end

