-- ==== Sys2Proof/Laws/Step.lean ====
section
/-! SUPPORT. Once and for all: what one cycle and one step can do. -/
namespace Sys2Proof.Machine

/-- Everything a cycle can do: nothing on a halted core; the FETCH_RANGE halt; the INVALID_OPCODE halt; or the
execute stage of the decoded instruction, from the post-fetch PC with the cycle's draws (40_cycle.md R145). -/
theorem cycle_cases (input : CycleInput) (s : State) :
    (∃ r, s.halt = some r ∧ cycle input s = .fault (.halted r)) ∨
    (s.halt = none ∧ topAddress < s.pc.toNat + 1 ∧
      cycle input s = .next ((s.setInput input).takeFault ⟨.fetchRange, s.pc, none, some s.pc.toNat⟩)) ∨
    (s.halt = none ∧ s.pc.toNat + 1 ≤ topAddress ∧ decodeWord s.fetchWord = none ∧
      cycle input s = .next (((s.setInput input).setPc (s.pc + 2)).raise .invalidOpcode s.fetchWord none)) ∨
    (∃ i, s.halt = none ∧ s.pc.toNat + 1 ≤ topAddress ∧ decodeWord s.fetchWord = some i ∧
      cycle input s = exec i ((s.setInput input).setPc (s.pc + 2))) := by
  unfold cycle
  cases hh : s.halt with
  | some r => exact .inl ⟨r, rfl, rfl⟩
  | none =>
    refine .inr ?_
    by_cases hp : topAddress < s.pc.toNat + 1
    · exact .inl ⟨rfl, hp, by simp [hp]⟩
    · refine .inr ?_
      cases hd : decodeWord s.fetchWord with
      | none => exact .inl ⟨rfl, by omega, rfl, by simp only [if_neg hp]⟩
      | some i => exact .inr ⟨i, rfl, by omega, rfl, by simp only [if_neg hp]⟩

/-- Everything a step that answers a next state can have done. -/
theorem step_next_cases {s t : State} (h : step s = .next t) :
    s.halt = none ∧
    ((topAddress < s.pc.toNat + 1 ∧
        t = (s.beginTurn.setInput s.nextTurn.input).takeFault ⟨.fetchRange, s.pc, none, some s.pc.toNat⟩) ∨
      (s.pc.toNat + 1 ≤ topAddress ∧ decodeWord s.fetchWord = none ∧
        t = ((s.beginTurn.setInput s.nextTurn.input).setPc (s.pc + 2)).raise .invalidOpcode s.fetchWord none) ∨
      (∃ i, s.pc.toNat + 1 ≤ topAddress ∧ decodeWord s.fetchWord = some i ∧
        exec i ((s.beginTurn.setInput s.nextTurn.input).setPc (s.pc + 2)) = .next t)) := by
  have hf : s.beginTurn.fetchWord = s.fetchWord := rfl
  rcases cycle_cases s.nextTurn.input s.beginTurn with ⟨r, _, hc⟩ | ⟨hh, hp, hc⟩ | ⟨hh, hp, hd, hc⟩ | ⟨i, hh, hp, hd, hc⟩
  all_goals rw [step, hc] at h
  · cases h
  · cases h; exact ⟨hh, .inl ⟨hp, rfl⟩⟩
  · cases h; exact ⟨hh, .inr (.inl ⟨hp, hf ▸ hd, rfl⟩)⟩
  · exact ⟨hh, .inr (.inr ⟨i, hp, hf ▸ hd, h⟩)⟩

/-- What the bytes at PC are after a word is placed there. -/
theorem fetchWord_placeWord (s : State) (w : Word) (h : s.pc.toNat + 1 ≤ topAddress) : (s.placeWord w).fetchWord = w := by
  have h1 : Memory.read (s.placeWord w).mem s.pc.toNat = w.extractLsb' 8 8 := by
    rw [State.placeWord_mem, Memory.read_writeBytes, dif_pos (by simp [bytesOfWord]; omega)]
    simp [bytesOfWord]
  have h2 : Memory.read (s.placeWord w).mem (s.pc.toNat + 1) = w.extractLsb' 0 8 := by
    rw [State.placeWord_mem, Memory.read_writeBytes, dif_pos (by simp [bytesOfWord]; omega)]
    simp [bytesOfWord]
  rw [State.fetchWord, State.placeWord_pc, h1, h2]
  apply BitVec.eq_of_toNat_eq
  have h := w.isLt
  have h0 : (w.extractLsb' 0 8).toNat < 2 ^ 8 := (w.extractLsb' 0 8).isLt
  simp only [wordOfBytes, BitVec.toNat_append]
  rw [← Nat.shiftLeft_add_eq_or_of_lt h0]
  simp only [BitVec.extractLsb'_toNat, Nat.shiftRight_eq_div_pow, Nat.shiftLeft_eq]
  omega

end Sys2Proof.Machine
end

