-- ==== Sys2Proof/Laws/Exec.lean ====
section
/-! SUPPORT. What the statements on instructions lean on: frames from equal fields, the checked spans at I, the font
region under writes, the key skips, and a sprite's bits. -/
namespace Sys2Proof.Machine

theorem next_inj {s t : State} : (Host.Outcome.next s : Host.Outcome State Fault Refusal) = .next t ↔ s = t :=
  ⟨fun h => by cases h; rfl, fun h => h ▸ rfl⟩

/-- A frame, from the equality of the fields of every part that may not change. -/
theorem OnlyChanges.of_fields {ps : List Part} {s t : State} (memory : Part.memory ∉ ps → t.mem = s.mem)
    (stack : Part.stack ∉ ps → t.stack = s.stack ∧ t.sp = s.sp) (pc : Part.pc ∉ ps → t.pc = s.pc)
    (index : Part.index ∉ ps → t.i = s.i) (registers : Part.registers ∉ ps → t.v = s.v)
    (framebuffer : Part.framebuffer ∉ ps → t.fb = s.fb) (sound : Part.sound ∉ ps → t.snd = s.snd)
    (keys : Part.keys ∉ ps → t.keys = s.keys) (delayTimer : Part.delayTimer ∉ ps → t.dt = s.dt)
    (soundTimer : Part.soundTimer ∉ ps → t.st = s.st) (halt : Part.halt ∉ ps → t.halt = s.halt)
    (hostInputs : Part.hostInputs ∉ ps → t.input = s.input ∧ t.cycles = s.cycles ∧ t.pending = s.pending) :
    OnlyChanges ps s t := by
  intro p hp
  cases p
  · intro a; rw [memory hp]
  · exact stack hp
  · exact pc hp
  · exact index hp
  · intro r; simp only [State.reg, registers hp]
  · intro x y; rw [framebuffer hp]
  · exact sound hp
  · exact keys hp
  · exact delayTimer hp
  · exact soundTimer hp
  · exact halt hp
  · exact hostInputs hp

/-! ## Checked spans -/

theorem readCheck_of_badRead {a : Nat} (h : BadRead a) : readCheck a = some .memRange := by
  simp only [BadRead] at h
  simp [readCheck, topAddress, h]

theorem readCheck_of_not_badRead {a : Nat} (h : ¬ BadRead a) : readCheck a = none := by
  simp only [BadRead] at h
  rw [readCheck_eq_none]
  simp only [topAddress]; omega

theorem writeCheck_of_badWrite {a : Nat} (h : BadWrite a) : writeCheck a = some (badWriteCode a) := by
  simp only [BadWrite] at h
  simp only [writeCheck, badWriteCode, topAddress]
  split
  · rfl
  · rw [if_pos (by omega)]

theorem writeCheck_of_not_badWrite {a : Nat} (h : ¬ BadWrite a) : writeCheck a = none := by
  simp only [BadWrite, not_or] at h
  rw [writeCheck_eq_none]
  exact ⟨by simp only [topAddress]; omega, h.2⟩

/-- A span passes its check when no address of it fails. -/
theorem firstFault_indexSpan_none {check : Nat → Option FaultCode} {i : Word} {n : Nat}
    (h : ∀ k < n, check (i.toNat + k) = none) : firstFault check (indexSpan i n) = none := by
  rw [firstFault_eq_none]
  intro a ha
  obtain ⟨h1, h2⟩ := mem_indexSpan.1 ha
  obtain ⟨k, rfl⟩ := Nat.exists_eq_add_of_le h1
  exact h k (by omega)

/-- A span fails at its lowest failing address. -/
theorem firstFault_indexSpan_some {check : Nat → Option FaultCode} {i : Word} {n a : Nat} {c : FaultCode}
    (h1 : i.toNat ≤ a) (h2 : a < i.toNat + n) (h3 : check a = some c) (h4 : ∀ b, i.toNat ≤ b → b < a → check b = none) :
    firstFault check (indexSpan i n) = some (c, a) := by
  rw [firstFault_eq_some]
  obtain ⟨k, rfl⟩ := Nat.exists_eq_add_of_le h1
  obtain ⟨m, hm⟩ := Nat.exists_eq_add_of_lt h2
  obtain rfl : n = k + (m + 1) := by omega
  refine ⟨(List.range k).map (i.toNat + ·), (List.range' (k + 1) m).map (i.toNat + ·), ?_, ?_, h3⟩
  · rw [indexSpan, List.range_add, List.map_append]
    congr 1
    rw [List.range_succ_eq_map, List.map_cons, List.map_cons]
    simp [List.range'_eq_map_range, Function.comp_def]
    intros; omega
  · intro b hb
    simp only [List.mem_map, List.mem_range] at hb
    obtain ⟨j, hj, rfl⟩ := hb
    exact h4 _ (by omega) (by omega)

/-! ## The font region under writes -/

/-- Canonical memory that lists no byte of the font region. -/
def Memory.Intact (m : Memory) : Prop := Memory.wf m ∧ ∀ c ∈ m, ¬ InFont c.1

theorem Memory.intact_write {m : Memory} {a : Nat} (b : Byte) (ha : writeCheck a = none) (h : Memory.Intact m) :
    Memory.Intact (Memory.write m a b) := by
  refine ⟨Memory.wf_write a b h.1, fun c hc => ?_⟩
  rcases Memory.mem_write hc with rfl | hc
  · exact (writeCheck_eq_none.1 ha).2
  · exact h.2 c hc

theorem Memory.intact_writeIf {m : Memory} {a : Nat} (b : Option Byte) (ha : writeCheck a = none) (h : Memory.Intact m) :
    Memory.Intact (Memory.writeIf m a b) := by
  cases b with
  | none => exact h
  | some b => exact Memory.intact_write b ha h

theorem Memory.intact_writeBytes {m : Memory} {a : Nat} {bs : List Byte} (ha : ∀ k < bs.length, writeCheck (a + k) = none)
    (h : Memory.Intact m) : Memory.Intact (Memory.writeBytes m a bs) := by
  induction bs generalizing m a with
  | nil => exact h
  | cons b bs ih =>
    refine ih (fun k hk => ?_) (Memory.intact_write b (ha 0 (by simp)) h)
    have := ha (k + 1) (by simp only [List.length_cons]; omega)
    rwa [show a + (k + 1) = a + 1 + k by omega] at this

/-! ## Key skips and sprites -/

/-- Everything a key skip can do: KEY_RANGE, or a skip on the key's state. -/
theorem State.skipOnKey_cases (s : State) (x : Reg) (down : Bool) (w : Word) :
    (15 < (s.reg x).toNat ∧ s.skipOnKey x down w = s.raise .keyRange w none) ∨
    ((s.reg x).toNat ≤ 15 ∧ s.skipOnKey x down w = s.skipIf (s.keys.getLsbD (s.reg x).toNat == down)) := by
  by_cases h : 15 < (s.reg x).toNat
  · exact .inl ⟨h, if_pos h⟩
  · exact .inr ⟨by omega, if_neg h⟩

/-- The bits of the rows DRAW reads are the sprite's bits. -/
theorem rowsBit_spriteRows (s : State) (x y : Reg) (n : Nat) (px : Fin 64) (py : Fin 32) :
    rowsBit ((s.reg x).toNat % 64) ((s.reg y).toNat % 32) 0 (spriteRows s.mem s.i n) px py = spriteBit s x y n px py := by
  unfold rowsBit spriteBit
  simp only [spriteRows, indexSpan, List.map_map]
  by_cases h : (s.reg y).toNat % 32 ≤ py.val ∧ py.val < (s.reg y).toNat % 32 + n
  · have : py.val - (s.reg y).toNat % 32 < n := by omega
    simp [h.1, h.2, this]
  · by_cases h2 : (s.reg y).toNat % 32 ≤ py.val
    · have : n ≤ py.val - (s.reg y).toNat % 32 := by omega
      simp [this]
      intros; omega
    · simp [h2]

end Sys2Proof.Machine
end

