-- ==== Sys2Proof/Laws/PerInstr.lean ====
section
/-! SUPPORT. Statements made per instruction, one lemma per constructor. RowMatch: the word of an instruction lies in
its own row of the opcode table (30_encoding.md R118, R120). -/
namespace Sys2Proof.Laws

theorem pack_and_fixed (op x y n : BitVec 4) : pack op x y n &&& 0xF00F#16 = pack op 0#4 0#4 n := by
  apply BitVec.eq_of_getLsbD_eq
  intro k hk
  simp only [pack, BitVec.getLsbD_and, BitVec.getLsbD_append]
  interval_cases k <;> simp

theorem pack_and_op (op x y n : BitVec 4) : pack op x y n &&& 0xF000#16 = pack op 0#4 0#4 0#4 := by
  apply BitVec.eq_of_getLsbD_eq
  intro k hk
  simp only [pack, BitVec.getLsbD_and, BitVec.getLsbD_append]
  interval_cases k <;> simp

theorem packByte_and_op (op x : BitVec 4) (nn : Byte) : packByte op x nn &&& 0xF000#16 = packByte op 0#4 0#8 := by
  apply BitVec.eq_of_getLsbD_eq
  intro k hk
  simp only [packByte, BitVec.getLsbD_and, BitVec.getLsbD_append]
  interval_cases k <;> simp

theorem packByte_and_fixed (op x : BitVec 4) (nn : Byte) : packByte op x nn &&& 0xF0FF#16 = packByte op 0#4 nn := by
  apply BitVec.eq_of_getLsbD_eq
  intro k hk
  simp only [packByte, BitVec.getLsbD_and, BitVec.getLsbD_append]
  interval_cases k <;> simp

theorem packAddress_and_op (op : BitVec 4) (nnn : Word) : packAddress op nnn &&& 0xF000#16 = packAddress op 0#16 := by
  apply BitVec.eq_of_getLsbD_eq
  intro k hk
  simp only [packAddress, BitVec.getLsbD_and, BitVec.getLsbD_append]
  interval_cases k <;> simp

namespace RowMatch

/-- The word of the instruction matches its row. -/
def Statement (i : Instr) : Prop := encode i &&& (opcodeRow i.rowIndex).mask = (opcodeRow i.rowIndex).pattern

theorem clear : Statement (.clear) := rfl

theorem ret : Statement (.ret) := rfl

theorem jump (nnn : Word) : Statement (.jump nnn) := (packAddress_and_op ..).trans rfl

theorem call (nnn : Word) : Statement (.call nnn) := (packAddress_and_op ..).trans rfl

theorem skipEqImm (x : Reg) (nn : Byte) : Statement (.skipEqImm x nn) := (packByte_and_op ..).trans rfl

theorem skipNeImm (x : Reg) (nn : Byte) : Statement (.skipNeImm x nn) := (packByte_and_op ..).trans rfl

theorem skipEqReg (x y : Reg) : Statement (.skipEqReg x y) := (pack_and_fixed ..).trans rfl

theorem setImm (x : Reg) (nn : Byte) : Statement (.setImm x nn) := (packByte_and_op ..).trans rfl

theorem addImm (x : Reg) (nn : Byte) : Statement (.addImm x nn) := (packByte_and_op ..).trans rfl

theorem copy (x y : Reg) : Statement (.copy x y) := (pack_and_fixed ..).trans rfl

theorem orReg (x y : Reg) : Statement (.orReg x y) := (pack_and_fixed ..).trans rfl

theorem andReg (x y : Reg) : Statement (.andReg x y) := (pack_and_fixed ..).trans rfl

theorem xorReg (x y : Reg) : Statement (.xorReg x y) := (pack_and_fixed ..).trans rfl

theorem addReg (x y : Reg) : Statement (.addReg x y) := (pack_and_fixed ..).trans rfl

theorem sub (x y : Reg) : Statement (.sub x y) := (pack_and_fixed ..).trans rfl

theorem shiftRight (x y : Reg) : Statement (.shiftRight x y) := (pack_and_fixed ..).trans rfl

theorem subn (x y : Reg) : Statement (.subn x y) := (pack_and_fixed ..).trans rfl

theorem shiftLeft (x y : Reg) : Statement (.shiftLeft x y) := (pack_and_fixed ..).trans rfl

theorem skipNeReg (x y : Reg) : Statement (.skipNeReg x y) := (pack_and_fixed ..).trans rfl

theorem setIndex (nnn : Word) : Statement (.setIndex nnn) := (packAddress_and_op ..).trans rfl

theorem jumpOffset (nnn : Word) : Statement (.jumpOffset nnn) := (packAddress_and_op ..).trans rfl

theorem rand (x : Reg) (nn : Byte) : Statement (.rand x nn) := (packByte_and_op ..).trans rfl

theorem draw (x y : Reg) (n : Nat) : Statement (.draw x y n) := (pack_and_op ..).trans rfl

theorem skipPressed (x : Reg) : Statement (.skipPressed x) := (packByte_and_fixed ..).trans rfl

theorem skipNotPressed (x : Reg) : Statement (.skipNotPressed x) := (packByte_and_fixed ..).trans rfl

theorem readDelay (x : Reg) : Statement (.readDelay x) := (packByte_and_fixed ..).trans rfl

theorem waitKey (x : Reg) : Statement (.waitKey x) := (packByte_and_fixed ..).trans rfl

theorem setDelay (x : Reg) : Statement (.setDelay x) := (packByte_and_fixed ..).trans rfl

theorem setSound (x : Reg) : Statement (.setSound x) := (packByte_and_fixed ..).trans rfl

theorem addIndex (x : Reg) : Statement (.addIndex x) := (packByte_and_fixed ..).trans rfl

theorem pointChar (x : Reg) : Statement (.pointChar x) := (packByte_and_fixed ..).trans rfl

theorem bcd (x : Reg) : Statement (.bcd x) := (packByte_and_fixed ..).trans rfl

theorem save (x : Reg) : Statement (.save x) := (packByte_and_fixed ..).trans rfl

theorem load (x : Reg) : Statement (.load x) := (packByte_and_fixed ..).trans rfl

end RowMatch

end Sys2Proof.Laws
end

