-- ==== Sys2Proof/Laws/Timers.lean ====
section
/-! SUPPORT. The laws of the timers (60_exceptions.md R370 to R373). -/
namespace Sys2Proof.Machine

/-- An inactive timer reads 0 (R370). -/
theorem Timer.read_inactive {t : Timer} (h : t.ts = 0) (now : Time) : t.read now = 0 := by simp [Timer.read, h]

theorem Timer.elapsed_nonneg (t : Timer) (now : Time) : 0 ≤ t.elapsed now := le_max_left _ _

theorem Timer.ticks_nonneg (t : Timer) (now : Time) : 0 ≤ t.ticks now := by
  have := t.elapsed_nonneg now
  unfold Timer.ticks; omega

/-- What an active timer reads: its value less the ticks, down to 0 (R370). -/
theorem Timer.read_active {t : Timer} (h : t.ts ≠ 0) (now : Time) :
    ((t.read now).toNat : Int) = max 0 ((t.val.toNat : Int) - t.ticks now) := by
  have hv := t.val.isLt
  have ht := t.ticks_nonneg now
  simp only [Timer.read, h, if_false, BitVec.toNat_ofInt]
  omega

/-- A timer never reads more than it was loaded with. -/
theorem Timer.read_le (t : Timer) (now : Time) : (t.read now).toNat ≤ t.val.toNat := by
  by_cases h : t.ts = 0
  · rw [Timer.read_inactive h]; simp
  · have := Timer.read_active h now
    have := t.ticks_nonneg now
    omega

@[simp] theorem Timer.load_ts (b : Byte) (now : Time) : (Timer.load b now).ts = now := rfl

@[simp] theorem Timer.load_val (b : Byte) (now : Time) : (Timer.load b now).val = b := rfl

end Sys2Proof.Machine
end

