-- ==== Sys2Proof/Machine/Assembly.lean ====
section
/-! DEFINITION. The assembler syntax of 30_encoding.md R128, and the bytes its lines stand for. There are no
pseudo-instructions (R129). No step reads this file. -/
namespace Sys2Proof

/-- A hex digit, in capitals as the spec writes them (R10). -/
def hexDigit (d : Nat) : String := ["0", "1", "2", "3", "4", "5", "6", "7", "8", "9", "A", "B", "C", "D", "E", "F"].getD d "0"

/-- A register, `V0` to `VF`. -/
def asmReg (x : Reg) : String := "V" ++ hexDigit x.val

/-- A byte, `0x` and two digits. -/
def asmByte (b : Byte) : String := "0x" ++ hexDigit (b.toNat / 16) ++ hexDigit (b.toNat % 16)

/-- A 12-bit address, `0x` and three digits. -/
def asmAddress (a : Word) : String :=
  "0x" ++ hexDigit (a.toNat / 256 % 16) ++ hexDigit (a.toNat / 16 % 16) ++ hexDigit (a.toNat % 16)

/-- DRAW's row count, in decimal as the programs of 95_test_vectors.md write it (log 12). -/
def asmCount (n : Nat) : String := if n < 10 then hexDigit n else hexDigit (n / 10 % 10) ++ hexDigit (n % 10)

/-- A mnemonic with one register. -/
def asmX (name : String) (x : Reg) : String := name ++ " " ++ asmReg x

/-- A mnemonic with two registers. -/
def asmXy (name : String) (x y : Reg) : String := asmX name x ++ ", " ++ asmReg y

/-- A mnemonic with a register and a byte. -/
def asmXnn (name : String) (x : Reg) (nn : Byte) : String := asmX name x ++ ", " ++ asmByte nn

/-- A mnemonic with an address. -/
def asmNnn (name : String) (nnn : Word) : String := name ++ " " ++ asmAddress nnn

/-- One instruction in the syntax of R128; JUMP_OFFSET's form is the one of the mode. -/
def Instr.toAsm (mode : JumpOffsetMode) : Instr → String
  | .clear => "CLEAR"
  | .ret => "RETURN"
  | .jump nnn => asmNnn "JUMP" nnn
  | .call nnn => asmNnn "CALL" nnn
  | .skipEqImm x nn => asmXnn "SKIP_EQ_IMM" x nn
  | .skipNeImm x nn => asmXnn "SKIP_NE_IMM" x nn
  | .skipEqReg x y => asmXy "SKIP_EQ_REG" x y
  | .setImm x nn => asmXnn "SET_IMM" x nn
  | .addImm x nn => asmXnn "ADD_IMM" x nn
  | .copy x y => asmXy "COPY" x y
  | .orReg x y => asmXy "OR" x y
  | .andReg x y => asmXy "AND" x y
  | .xorReg x y => asmXy "XOR" x y
  | .addReg x y => asmXy "ADD_REG" x y
  | .sub x y => asmXy "SUB" x y
  | .shiftRight x y => asmXy "SHIFT_RIGHT" x y
  | .subn x y => asmXy "SUBN" x y
  | .shiftLeft x y => asmXy "SHIFT_LEFT" x y
  | .skipNeReg x y => asmXy "SKIP_NE_REG" x y
  | .setIndex nnn => asmNnn "SET_INDEX" nnn
  | .jumpOffset nnn =>
    match mode with
    | .bnnn => asmNnn "JUMP_OFFSET" nnn
    | .bxnn => asmXnn "JUMP_OFFSET" (nnn.extractLsb' 8 4).toFin (nnn.extractLsb' 0 8)
  | .rand x nn => asmXnn "RAND" x nn
  | .draw x y n => asmXy "DRAW" x y ++ ", " ++ asmCount n
  | .skipPressed x => asmX "SKIP_PRESSED" x
  | .skipNotPressed x => asmX "SKIP_NOT_PRESSED" x
  | .readDelay x => asmX "READ_DELAY" x
  | .waitKey x => asmX "WAIT_KEY" x
  | .setDelay x => asmX "SET_DELAY" x
  | .setSound x => asmX "SET_SOUND" x
  | .addIndex x => asmX "ADD_INDEX" x
  | .pointChar x => asmX "POINT_CHAR" x
  | .bcd x => asmX "BCD" x
  | .save x => asmX "SAVE" x
  | .load x => asmX "LOAD" x

/-- A line of a program: an instruction or the `BYTE` directive. -/
inductive AsmLine where
  | instr (i : Instr)
  | bytes (bs : List Byte)
deriving DecidableEq, Repr

/-- The text of a line. -/
def AsmLine.toAsm (mode : JumpOffsetMode) : AsmLine → String
  | .instr i => i.toAsm mode
  | .bytes bs => "BYTE " ++ String.intercalate ", " (bs.map asmByte)

/-- The bytes a line stands for. -/
def AsmLine.toBytes : AsmLine → List Byte
  | .instr i => encodeBytes i
  | .bytes bs => bs

/-- The ROM image of a program. -/
def assemble (lines : List AsmLine) : List Byte := (lines.map AsmLine.toBytes).flatten

end Sys2Proof
end

