-- ==== Sys2Proof/Tests/Slice0.lean ====
section
/-! SUPPORT. Tests of the model on the vectors of 95_test_vectors.md (a name holds the vector's id) and on words
written out from the patterns of 30_encoding.md R120; then, for every statement with hypotheses, witnesses that
meet them. -/
namespace Sys2Proof.Tests
open Sys2Proof Sys2Proof.Machine

/-! ## WellFormed: every check refuses an ill-formed term -/

theorem test_wf_jump : (Instr.jump 0x1000#16).wellFormed = false ∧ (Instr.jump 0x0FFF#16).wellFormed = true := by decide
theorem test_wf_call : (Instr.call 0x1000#16).wellFormed = false ∧ (Instr.call 0x0FFF#16).wellFormed = true := by decide
theorem test_wf_setIndex : (Instr.setIndex 0xF000#16).wellFormed = false ∧ (Instr.setIndex 0#16).wellFormed = true := by decide
theorem test_wf_jumpOffset :
    (Instr.jumpOffset 0x1000#16).wellFormed = false ∧ (Instr.jumpOffset 0x0FFF#16).wellFormed = true := by decide
theorem test_wf_draw : (Instr.draw 0 1 16).wellFormed = false ∧ (Instr.draw 0 1 15).wellFormed = true := by decide

/-! ## Decoding: one word per row, and words of no row -/

theorem test_decode_clear : decodeWord 0b0000000011100000#16 = some .clear := by decide
theorem test_decode_ret : decodeWord 0b0000000011101110#16 = some .ret := by decide
theorem test_decode_jump : decodeWord 0b0001101010111100#16 = some (.jump 0xABC#16) := by decide
theorem test_decode_call : decodeWord 0b0010001100000000#16 = some (.call 0x300#16) := by decide
theorem test_decode_skipEqImm : decodeWord 0b0011111100000001#16 = some (.skipEqImm 15 0x01#8) := by decide
theorem test_decode_skipNeImm : decodeWord 0b0100001101000010#16 = some (.skipNeImm 3 0x42#8) := by decide
theorem test_decode_skipEqReg : decodeWord 0b0101000100100000#16 = some (.skipEqReg 1 2) := by decide
theorem test_decode_setImm : decodeWord 0b0110101001111011#16 = some (.setImm 10 0x7B#8) := by decide
theorem test_decode_addImm : decodeWord 0b0111000111111111#16 = some (.addImm 1 0xFF#8) := by decide
theorem test_decode_copy : decodeWord 0b1000000111110000#16 = some (.copy 1 15) := by decide
theorem test_decode_orReg : decodeWord 0b1000000100100001#16 = some (.orReg 1 2) := by decide
theorem test_decode_andReg : decodeWord 0b1000000100100010#16 = some (.andReg 1 2) := by decide
theorem test_decode_xorReg : decodeWord 0b1000000100100011#16 = some (.xorReg 1 2) := by decide
theorem test_decode_addReg : decodeWord 0b1000111100010100#16 = some (.addReg 15 1) := by decide
theorem test_decode_sub : decodeWord 0b1000000100100101#16 = some (.sub 1 2) := by decide
theorem test_decode_shiftRight : decodeWord 0b1000000100100110#16 = some (.shiftRight 1 2) := by decide
theorem test_decode_subn : decodeWord 0b1000000100100111#16 = some (.subn 1 2) := by decide
theorem test_decode_shiftLeft : decodeWord 0b1000000100101110#16 = some (.shiftLeft 1 2) := by decide
theorem test_decode_skipNeReg : decodeWord 0b1001000100100000#16 = some (.skipNeReg 1 2) := by decide
theorem test_decode_setIndex : decodeWord 0b1010001100000000#16 = some (.setIndex 0x300#16) := by decide
theorem test_decode_jumpOffset : decodeWord 0b1011001011110000#16 = some (.jumpOffset 0x2F0#16) := by decide
theorem test_decode_rand : decodeWord 0b1100001100001111#16 = some (.rand 3 0x0F#8) := by decide
theorem test_decode_draw : decodeWord 0b1101000000010010#16 = some (.draw 0 1 2) := by decide
theorem test_decode_skipPressed : decodeWord 0b1110010110011110#16 = some (.skipPressed 5) := by decide
theorem test_decode_skipNotPressed : decodeWord 0b1110010110100001#16 = some (.skipNotPressed 5) := by decide
theorem test_decode_readDelay : decodeWord 0b1111001000000111#16 = some (.readDelay 2) := by decide
theorem test_decode_waitKey : decodeWord 0b1111001100001010#16 = some (.waitKey 3) := by decide
theorem test_decode_setDelay : decodeWord 0b1111000100010101#16 = some (.setDelay 1) := by decide
theorem test_decode_setSound : decodeWord 0b1111000100011000#16 = some (.setSound 1) := by decide
theorem test_decode_addIndex : decodeWord 0b1111000100011110#16 = some (.addIndex 1) := by decide
theorem test_decode_pointChar : decodeWord 0b1111001000101001#16 = some (.pointChar 2) := by decide
theorem test_decode_bcd : decodeWord 0b1111101000110011#16 = some (.bcd 10) := by decide
theorem test_decode_save : decodeWord 0b1111000101010101#16 = some (.save 1) := by decide
theorem test_decode_load : decodeWord 0b1111001001100101#16 = some (.load 2) := by decide

/-- TV-Y1 to TV-Y8: words of no row. -/
theorem test_decode_invalid :
    ([0x0000#16, 0x0123#16, 0x00E1#16, 0x5121#16, 0x8128#16, 0x812F#16, 0x9121#16, 0xE19F#16, 0xE1A0#16, 0xF000#16,
      0xF0FF#16, 0xF156#16].map decodeWord).all Option.isNone = true := by decide

/-- Words are read high byte first, and rejected by name (R86, R123). -/
theorem test_decode_bytes : decodeBytes [0x12#8, 0x34#8, 0xFF#8] = .ok (.jump 0x234#16, [0xFF#8]) := by decide
theorem test_decode_bytes_invalid : decodeBytes [0x01#8, 0x23#8] = .error (.invalid 0x0123#16) := by decide
theorem test_decode_bytes_short : decodeBytes [0x12#8] = .error .tooShort := by decide

/-! ## Encoding and the assembler syntax (R128): the programs of 95_test_vectors.md -/

/-- P1. -/
theorem test_assemble_p1 :
    assemble [.instr (.setImm 0 0x00#8), .instr (.setImm 1 0x05#8), .instr (.addReg 0 1), .instr (.addImm 1 0xFF#8),
      .instr (.skipEqImm 1 0x00#8), .instr (.jump 0x204#16), .instr (.jump 0x20C#16)] =
    [0x60#8, 0x00#8, 0x61#8, 0x05#8, 0x80#8, 0x14#8, 0x71#8, 0xFF#8, 0x31#8, 0x00#8, 0x12#8, 0x04#8, 0x12#8, 0x0C#8] := by
  decide

/-- P2. -/
theorem test_assemble_p2 :
    assemble [.instr (.setImm 10 0x7B#8), .instr (.setIndex 0x300#16), .instr (.call 0x210#16), .instr (.load 2),
      .instr (.jump 0x208#16), .bytes [0#8, 0#8, 0#8, 0#8, 0#8, 0#8], .instr (.bcd 10), .instr .ret] =
    [0x6A#8, 0x7B#8, 0xA3#8, 0x00#8, 0x22#8, 0x10#8, 0xF2#8, 0x65#8, 0x12#8, 0x08#8, 0#8, 0#8, 0#8, 0#8, 0#8, 0#8,
      0xFA#8, 0x33#8, 0x00#8, 0xEE#8] := by decide

/-- P3. -/
theorem test_assemble_p3 :
    assemble [.instr (.draw 0 1 2), .bytes [0xFF#8, 0x81#8]] = [0xD0#8, 0x12#8, 0xFF#8, 0x81#8] := by decide

/-- P5 and P6. -/
theorem test_assemble_p5_p6 :
    assemble [.instr (.waitKey 0), .instr (.setDelay 0), .instr (.readDelay 1), .instr (.save 1),
      .instr (.shiftRight 0 1)] = [0xF0#8, 0x0A#8, 0xF0#8, 0x15#8, 0xF1#8, 0x07#8, 0xF1#8, 0x55#8, 0x80#8, 0x16#8] := by
  decide

theorem test_asm_text :
    (Instr.skipEqImm 1 0x00#8).toAsm .bnnn = "SKIP_EQ_IMM V1, 0x00" ∧ (Instr.jump 0x20C#16).toAsm .bnnn = "JUMP 0x20C" ∧
    (Instr.draw 0 1 2).toAsm .bnnn = "DRAW V0, V1, 2" ∧ (Instr.bcd 10).toAsm .bnnn = "BCD VA" := by decide

theorem test_asm_bytes : (AsmLine.bytes [0xFF#8, 0x81#8]).toAsm .bnnn = "BYTE 0xFF, 0x81" := by decide

/-- R122: one word, two meanings. -/
theorem test_asm_jumpOffset :
    (Instr.jumpOffset 0x2F0#16).toAsm .bnnn = "JUMP_OFFSET 0x2F0" ∧
    (Instr.jumpOffset 0x2F0#16).toAsm .bxnn = "JUMP_OFFSET V2, 0xF0" := by decide

/-! ## Small states -/

/-- What is asked of an outcome's next state. -/
def ask {α : Type} (o : Host.Outcome State Fault Refusal) (f : State → α) : Option α :=
  match o with
  | .next t => some (f t)
  | .fault _ => none
  | .refused _ => none

/-- Reset, after the fetch of a word at 0x200. -/
def start : State := State.reset.setPc 0x202#16

def withRegs (s : State) (rs : List (Reg × Byte)) : State := rs.foldl (fun s r => s.setReg r.1 r.2) s

def withBytes (s : State) (a : Nat) (bs : List Byte) : State := s.setMem (Memory.writeBytes s.mem a bs)

/-- A cycle's draws: a time and a random byte. -/
def draws (now : Int) (rnd : Byte) : CycleInput := ⟨BitVec.ofInt 64 now, rnd, false, false, false⟩

def bytesAt (a n : Nat) (t : State) : List Byte := (List.range n).map (fun k => Memory.read t.mem (a + k))

/-! ## The cycle -/

/-- S1: the word is read big-endian and PC is 2 further before execute; 0x2234 pushes it. -/
theorem test_S1 : ask (step (withBytes State.reset 0x200 [0x22#8, 0x34#8])) (fun t => (t.pc, t.stack[0])) =
    some (0x234#16, 0x202#16) := by decide
theorem test_Y1 : ask (step State.reset) (fun t => (t.pc, t.halt)) =
    some (0x202#16, some ⟨.invalidOpcode, 0x200#16, some 0x0000#16, none⟩) := by decide
theorem test_Y9 : ask (step (State.reset.setPc 0xFFF#16)) (fun t => (t.pc, t.halt)) =
    some (0xFFF#16, some ⟨.fetchRange, 0xFFF#16, none, some 0xFFF⟩) := by decide
theorem test_Y10 : ask (step (withBytes (State.reset.setPc 0xFFE#16) 0xFFE [0x6A#8, 0x01#8])) (fun t => (t.pc, t.reg 10)) =
    some (0x1000#16, 0x01#8) := by decide
theorem test_Y11 : ask (step (withBytes (State.reset.setPc 0x201#16) 0x201 [0x60#8, 0x07#8])) (fun t => (t.pc, t.reg 0)) =
    some (0x203#16, 0x07#8) := by decide
theorem test_Y12 : step (State.reset.takeFault ⟨.keyRange, 0x200#16, some 0xE59E#16, none⟩) =
    .fault (.halted ⟨.keyRange, 0x200#16, some 0xE59E#16, none⟩) := by rfl

/-- The code numbers of R351. -/
theorem test_fault_numbers :
    [FaultCode.invalidOpcode, .fetchRange, .memRange, .stackOverflow, .stackUnderflow, .keyRange, .fontWrite].map
      FaultCode.number = [1, 2, 3, 4, 5, 6, 7] := by decide

/-! ## Control flow -/

theorem test_C1 : ask (exec .ret (start.push 0x206#16 (by decide))) (fun t => (t.pc, t.sp.val, t.stack[0])) =
    some (0x206#16, 0, 0x206#16) := by decide
theorem test_C2 : ask (exec .ret start) (fun t => (t.pc, t.halt)) =
    some (0x202#16, some ⟨.stackUnderflow, 0x200#16, some 0x00EE#16, none⟩) := by decide
theorem test_C3 : ask (exec (.jump 0xFFF#16) start) (fun t => t.pc) = some 0xFFF#16 := by decide
theorem test_C5 : ask (exec (.call 0x300#16) { start with sp := 15 }) (fun t => (t.pc, t.sp.val, t.stack[15])) =
    some (0x300#16, 16, 0x202#16) := by decide
theorem test_C6 : ask (exec (.call 0x300#16) { start with sp := 16 }) (fun t => (t.pc, t.sp.val, t.stack[15], t.halt)) =
    some (0x202#16, 16, 0#16, some ⟨.stackOverflow, 0x200#16, some 0x2300#16, none⟩) := by decide
theorem test_C8 : ask (exec (.skipEqImm 15 0x01#8) (withRegs start [(15, 0x01#8)])) (fun t => t.pc) = some 0x204#16 := by decide
theorem test_C9 : ask (exec (.skipEqImm 3 0x42#8) (withRegs start [(3, 0x41#8)])) (fun t => t.pc) = some 0x202#16 := by decide
theorem test_C11 : ask (exec (.skipNeImm 3 0x42#8) (withRegs start [(3, 0x42#8)])) (fun t => t.pc) = some 0x202#16 := by decide
theorem test_C12 : ask (exec (.skipEqReg 1 1) (withRegs start [(1, 5#8)])) (fun t => t.pc) = some 0x204#16 := by decide
theorem test_C13 : ask (exec (.skipEqReg 1 2) (withRegs start [(1, 5#8), (2, 6#8)])) (fun t => t.pc) = some 0x202#16 := by decide
theorem test_C14 : ask (exec (.skipNeReg 1 1) (withRegs start [(1, 5#8)])) (fun t => t.pc) = some 0x202#16 := by decide
theorem test_C15 : ask (exec (.skipNeReg 1 2) (withRegs start [(1, 5#8), (2, 6#8)])) (fun t => t.pc) = some 0x204#16 := by decide
/-- TV-C17 and TV-C19, for each mode. -/
theorem test_C17 :
    jumpOffsetTarget .bnnn 0xFFF#16 (withRegs start [(0, 0xFF#8)]).v = 0x0FE#16 ∧
    jumpOffsetTarget .bxnn 0xFFF#16 (withRegs start [(0, 0xFF#8)]).v = 0x0FF#16 := by decide
theorem test_C19 :
    jumpOffsetTarget .bnnn 0x2F0#16 (withRegs start [(2, 0x20#8)]).v = 0x2F0#16 ∧
    jumpOffsetTarget .bxnn 0x2F0#16 (withRegs start [(2, 0x20#8)]).v = 0x110#16 := by decide

/-! ## Registers and arithmetic -/

theorem test_A1 : ask (exec (.setImm 10 0x7B#8) start) (fun t => t.reg 10) = some 0x7B#8 := by decide
theorem test_A2 : ask (exec (.addImm 15 0xFF#8) (withRegs start [(15, 0x01#8)])) (fun t => t.reg 15) = some 0x00#8 := by decide
theorem test_A3 : ask (exec (.addImm 1 0x02#8) (withRegs start [(1, 0xFF#8), (15, 0x07#8)])) (fun t => (t.reg 1, t.reg 15)) =
    some (0x01#8, 0x07#8) := by decide
/-- The registers of TV-A4. -/
def logicStart : State := withRegs start [(1, 0x3C#8), (2, 0x0F#8), (15, 0x55#8)]
theorem test_A4_or : ask (exec (.orReg 1 2) logicStart) (fun t => (t.reg 1, t.reg 15)) = some (0x3F#8, 0x55#8) := by decide
theorem test_A4_and : ask (exec (.andReg 1 2) logicStart) (fun t => (t.reg 1, t.reg 15)) = some (0x0C#8, 0x55#8) := by decide
theorem test_A4_xor : ask (exec (.xorReg 1 2) logicStart) (fun t => (t.reg 1, t.reg 15)) = some (0x33#8, 0x55#8) := by decide
/-- R204. -/
theorem test_copy : ask (exec (.copy 15 2) logicStart) (fun t => (t.reg 15, t.reg 2)) = some (0x0F#8, 0x0F#8) := by decide
theorem test_A5 : ask (exec (.addReg 1 2) (withRegs start [(1, 0xEE#8), (2, 0x12#8)])) (fun t => (t.reg 1, t.reg 15)) =
    some (0x00#8, 1#8) := by decide
theorem test_A8 : ask (exec (.addReg 1 15) (withRegs start [(1, 0x10#8), (15, 0xF0#8)])) (fun t => (t.reg 1, t.reg 15)) =
    some (0x00#8, 1#8) := by decide
/-- TV-A9: VF as the destination, for each policy and draw. -/
theorem test_A9 :
    (writeResultFlag .flagLast false start.v 15 0x00#8 true)[15] = 1#8 ∧
    (writeResultFlag .resultLast true start.v 15 0x00#8 true)[15] = 0#8 ∧
    (writeResultFlag .either true start.v 15 0x00#8 true)[15] = 1#8 ∧
    (writeResultFlag .either false start.v 15 0x00#8 true)[15] = 0#8 := by decide
theorem test_A10 : ask (exec (.sub 1 2) (withRegs start [(1, 0x10#8), (2, 0x10#8)])) (fun t => (t.reg 1, t.reg 15)) =
    some (0x00#8, 0#8) := by decide
theorem test_A11 : ask (exec (.sub 1 2) (withRegs start [(1, 0x00#8), (2, 0x01#8)])) (fun t => (t.reg 1, t.reg 15)) =
    some (0xFF#8, 0#8) := by decide
theorem test_A14 : ask (exec (.subn 1 2) (withRegs start [(1, 0x10#8), (2, 0x20#8)])) (fun t => (t.reg 1, t.reg 15)) =
    some (0x10#8, 1#8) := by decide
theorem test_A15 : ask (exec (.subn 1 2) (withRegs start [(1, 0x20#8), (2, 0x20#8)])) (fun t => (t.reg 1, t.reg 15)) =
    some (0x00#8, 0#8) := by decide
/-- TV-A17, for each source. -/
theorem test_A17_vy (h : Config.current.shiftSource = .vy) :
    ask (exec (.shiftRight 1 2) (withRegs start [(1, 0x05#8), (2, 0x00#8)])) (fun t => (t.reg 1, t.reg 15)) =
      some (0x00#8, 0#8) := by simp only [exec, execShiftRight, h]; decide
theorem test_A17_vx (h : Config.current.shiftSource = .vx) :
    ask (exec (.shiftRight 1 2) (withRegs start [(1, 0x05#8), (2, 0x00#8)])) (fun t => (t.reg 1, t.reg 15)) =
      some (0x02#8, 1#8) := by simp only [exec, execShiftRight, h]; decide
/-- TV-A19, for each source. -/
theorem test_A19_vy (h : Config.current.shiftSource = .vy) :
    ask (exec (.shiftLeft 1 2) (withRegs start [(1, 0x80#8), (2, 0x7F#8)])) (fun t => (t.reg 1, t.reg 15)) =
      some (0xFE#8, 0#8) := by simp only [exec, execShiftLeft, h]; decide
theorem test_A19_vx (h : Config.current.shiftSource = .vx) :
    ask (exec (.shiftLeft 1 2) (withRegs start [(1, 0x80#8), (2, 0x7F#8)])) (fun t => (t.reg 1, t.reg 15)) =
      some (0x00#8, 1#8) := by simp only [exec, execShiftLeft, h]; decide
theorem test_A21 : ask (exec (.rand 3 0xFF#8) (start.setInput (draws 0 0x5A#8))) (fun t => t.reg 3) = some 0x5A#8 := by decide
theorem test_A23 : ask (exec (.rand 3 0x0F#8) (start.setInput (draws 0 0xA5#8))) (fun t => t.reg 3) = some 0x05#8 := by decide

/-! ## Index register and memory -/

theorem test_M1 : ask (exec (.setIndex 0x300#16) start) (fun t => t.i) = some 0x300#16 := by decide
theorem test_M4_set (h : Config.current.addIndexVf = .set) :
    ask (exec (.addIndex 15) (withRegs (start.setI 0xFF0#16) [(15, 0x20#8)])) (fun t => (t.i, t.reg 15)) =
      some (0x010#16, 1#8) := by simp only [exec, execAddIndex, h]; decide
theorem test_M4_never (h : Config.current.addIndexVf = .never) :
    ask (exec (.addIndex 15) (withRegs (start.setI 0xFF0#16) [(15, 0x20#8)])) (fun t => (t.i, t.reg 15)) =
      some (0x010#16, 0x20#8) := by simp only [exec, execAddIndex, h]; decide
theorem test_M6 : ask (exec (.pointChar 2) (withRegs start [(2, 0x0F#8)])) (fun t => t.i) = some 0x09B#16 := by decide
theorem test_M7 : ask (exec (.pointChar 2) (withRegs start [(2, 0x1A#8)])) (fun t => t.i) = some 0x082#16 := by decide
theorem test_M8 : ask (exec (.bcd 1) (withRegs (start.setI 0x300#16) [(1, 123#8)])) (bytesAt 0x300 3) =
    some [1#8, 2#8, 3#8] := by decide
/-- TV-M11, for each policy and draw: 0 leaves all three digits unsettled or untouched. -/
theorem test_M11 :
    [tensDigit .keep true 0#8, tensDigit .zero false 0#8, tensDigit .either true 0#8, tensDigit .either false 0#8,
      onesDigit .keep true 0#8, onesDigit .zero false 0#8, onesDigit .either true 0#8, onesDigit .either false 0#8,
      hundredsDigit 0#8] =
    [none, some 0#8, some 0#8, none, none, some 0#8, some 0#8, none, none] := by decide
theorem test_M14 :
    ask (exec (.bcd 1) (withBytes (withRegs (start.setI 0x04E#16) [(1, 200#8)]) 0x04E [7#8])) (fun t => (bytesAt 0x04E 1 t, t.halt)) =
      some ([7#8], some ⟨.fontWrite, 0x200#16, some 0xF133#16, some 0x050⟩) := by decide
theorem test_M16_increment (h : Config.current.saveIncrementI = .increment) :
    ask (exec (.save 2) (withRegs (start.setI 0x300#16) [(0, 1#8), (1, 2#8), (2, 3#8)])) (fun t => (bytesAt 0x300 3 t, t.i)) =
      some ([1#8, 2#8, 3#8], 0x303#16) := by simp only [exec, execSave, h]; decide
theorem test_M18_keep (h : Config.current.saveIncrementI = .keep) :
    ask (exec (.save 0) (withRegs (start.setI 0xFFF#16) [(0, 0xAB#8)])) (fun t => (bytesAt 0xFFF 1 t, t.i)) =
      some ([0xAB#8], 0xFFF#16) := by simp only [exec, execSave, h]; decide
theorem test_M22 : ask (exec (.load 1) (withRegs (start.setI 0xFFF#16) [(0, 5#8), (1, 6#8)])) (fun t => (t.reg 0, t.reg 1, t.halt)) =
    some (5#8, 6#8, some ⟨.memRange, 0x200#16, some 0xF165#16, some 0x1000⟩) := by decide
theorem test_M23 : ask (exec (.load 2) (withBytes (start.setI 0x300#16) 0x300 [7#8, 8#8, 9#8, 10#8]))
    (fun t => (t.reg 0, t.reg 2, t.reg 3, t.i)) = some (7#8, 9#8, 0#8, 0x300#16) := by decide

/-! ## Display -/

/-- TV-X1 and TV-X2. -/
theorem test_X1 : (start.fb.writePixel 0 0 true)[0] = 0x80#8 ∧ (start.fb.writePixel 63 31 true)[255] = 0x01#8 := by decide
theorem test_X4 : ((Framebuffer.fill true).writePixel 9 0 false)[1] = 0xBF#8 := by decide
theorem test_D1 : ask (exec .clear (withRegs (start.setFb (Framebuffer.fill true)) [(15, 5#8)])) (fun t => (t.fb[0], t.fb[255], t.reg 15)) =
    some (0#8, 0#8, 5#8) := by decide
theorem test_D5 :
    ask (exec (.draw 0 1 1) (withBytes (withRegs ((start.setI 0x300#16).setFb (start.fb.writePixel 61 0 true)) [(0, 61#8), (1, 0#8)]) 0x300 [0x80#8]))
      (fun t => (t.fb[7], t.reg 15)) = some (0#8, 1#8) := by decide
theorem test_D4 : ask (exec (.draw 0 1 2) (withBytes (withRegs (start.setI 0x300#16) [(1, 31#8)]) 0x300 [0xFF#8, 0xFF#8]))
    (fun t => (t.fb[248], t.fb[0], t.reg 15)) = some (0xFF#8, 0#8, 0#8) := by decide

/-! ## Keys and timers -/

theorem test_K1 : ask (exec (.skipPressed 5) ((withRegs start [(5, 0x0A#8)]).setKeys 0x0400#16)) (fun t => t.pc) =
    some 0x204#16 := by decide
theorem test_K2 : ask (exec (.skipNotPressed 5) (withRegs start [(5, 0x0A#8)])) (fun t => t.pc) = some 0x204#16 := by decide
theorem test_K3 : ask (exec (.skipPressed 5) (withRegs start [(5, 0x10#8)])) (fun t => (t.pc, t.halt)) =
    some (0x202#16, some ⟨.keyRange, 0x200#16, some 0xE59E#16, none⟩) := by decide
theorem test_K4 : ask (exec (.skipNotPressed 5) (withRegs start [(5, 0xFF#8)])) (fun t => (t.pc, t.halt)) =
    some (0x202#16, some ⟨.keyRange, 0x200#16, some 0xE5A1#16, none⟩) := by decide
theorem test_K5 : ask (exec (.waitKey 3) (withRegs start [(3, 0x44#8)])) (fun t => (t.pc, t.reg 3)) =
    some (0x200#16, 0x44#8) := by decide
theorem test_K7 : ask (exec (.waitKey 3) (start.setKeys 0x0208#16)) (fun t => (t.pc, t.reg 3)) = some (0x202#16, 3#8) := by decide
theorem test_T1 : ask (exec (.setDelay 1) ((withRegs start [(1, 100#8)]).setInput (draws 1000 0#8))) (fun t => t.dt) =
    some ⟨1000#64, 100#8⟩ := by decide
theorem test_T2 : ask (exec (.readDelay 2) ((start.setDt ⟨1000#64, 100#8⟩).setInput (draws 1017 0#8))) (fun t => t.reg 2) =
    some 99#8 := by decide
theorem test_T3 : ask (exec (.readDelay 2) ((start.setDt ⟨1000#64, 100#8⟩).setInput (draws 500 0#8))) (fun t => t.reg 2) =
    some 100#8 := by decide
/-- TV-T2, TV-T4, TV-T5 and TV-T7. -/
theorem test_T4 :
    Timer.read ⟨1000#64, 100#8⟩ 1016#64 = 100#8 ∧ Timer.read ⟨1000#64, 100#8⟩ 2666#64 = 1#8 ∧
    Timer.read ⟨1000#64, 100#8⟩ 2667#64 = 0#8 ∧ Timer.read ⟨0#64, 50#8⟩ 7#64 = 0#8 ∧
    Timer.read ⟨BitVec.ofInt 64 (-1000), 10#8⟩ 0#64 = 0#8 := by decide
theorem test_T8 :
    ((start.setSt ⟨1000#64, 2#8⟩).hostOp (.refreshBeeper 1033#64)).snd = true ∧
    ((start.setSt ⟨1000#64, 2#8⟩).hostOp (.refreshBeeper 1034#64)).snd = false := by decide
theorem test_T9 : ask (exec (.setSound 1) ((withRegs start [(1, 30#8)]).setInput (draws 5000 0#8))) (fun t => (t.st, t.snd)) =
    some (⟨5000#64, 30#8⟩, false) := by decide

/-! ## Reset and the host -/

theorem test_RS1 : ask (resetRom [0x12#8, 0x00#8]) (fun t => (bytesAt 0x200 3 t, t.pc, t.halt)) =
    some ([0x12#8, 0x00#8, 0#8], 0x200#16, none) := by decide
/-- A decided host turn: the keys are set before the cycle of the step (R385). -/
theorem test_host_turn :
    ask (step { (withBytes State.reset 0x200 [0xF3#8, 0x0A#8]) with pending := [⟨[.setKeys 0x0020#16], draws 0 0#8⟩] })
      (fun t => (t.pc, t.reg 3, t.keys, t.pending)) = some (0x202#16, 5#8, 0x0020#16, []) := by decide

/-! ## Witnesses: the hypotheses of every statement are met together

Where a clause's hypothesis is a value of the configuration, which is a constant without a body, the witness is that
one of the clauses is always met: `cases_configuration`. -/

/-- Every field of the configuration has one of the values the statements name. -/
theorem cases_configuration :
    (Config.current.shiftSource = .vy ∨ Config.current.shiftSource = .vx) ∧
    (Config.current.jumpOffsetMode = .bnnn ∨ Config.current.jumpOffsetMode = .bxnn) ∧
    (Config.current.addIndexVf = .set ∨ Config.current.addIndexVf = .never) ∧
    (Config.current.saveIncrementI = .increment ∨ Config.current.saveIncrementI = .keep) ∧
    (Config.current.vfAliasPolicy = .flagLast ∨ Config.current.vfAliasPolicy = .resultLast ∨
      Config.current.vfAliasPolicy = .either) ∧
    (Config.current.bcdUnsettled = .keep ∨ Config.current.bcdUnsettled = .zero ∨ Config.current.bcdUnsettled = .either) := by
  refine ⟨?_, ?_, ?_, ?_, ?_, ?_⟩
  · cases Config.current.shiftSource <;> simp
  · cases Config.current.jumpOffsetMode <;> simp
  · cases Config.current.addIndexVf <;> simp
  · cases Config.current.saveIncrementI <;> simp
  · cases Config.current.vfAliasPolicy <;> simp
  · cases Config.current.bcdUnsettled <;> simp

/-- Both classes of the statements on a result and flag: VF is the destination, or is not. -/
theorem witness_ResultAndFlag : (∃ x : Reg, x ≠ VF) ∧ (∃ x : Reg, x = VF) := ⟨⟨0, by decide⟩, ⟨15, rfl⟩⟩

theorem witness_DecodeEncodeRoundTrip :
    (Instr.jump 0xFFF#16).wellFormed = true ∧ (Instr.jump 0#16).wellFormed = true ∧ (Instr.draw 15 15 15).wellFormed = true := by
  decide

theorem witness_EncodeOfDecodedWord : decodeWord 0xFFFF#16 = none ∧ decodeWord 0xFF65#16 = some (.load 15) := by decide

theorem witness_DecodeFollowsOpcodeTable :
    0xFF65#16 &&& (opcodeRow 33).mask = (opcodeRow 33).pattern ∧ 0x00E0#16 &&& (opcodeRow 0).mask = (opcodeRow 0).pattern := by
  decide

/-- A running core at a word, at the lowest and the highest PC that can fetch. -/
theorem witness_StepRunsDecodedInstruction (p : Word) (hp : p = 0#16 ∨ p = 0xFFE#16) :
    ∃ (s : State) (i : Instr), s.pc = p ∧ s.Running ∧ s.pc.toNat + 1 ≤ 0xFFF ∧
      decodeBytes [Memory.read s.mem s.pc.toNat, Memory.read s.mem (s.pc.toNat + 1)] = .ok (i, []) := by
  rcases hp with rfl | rfl
  · exact ⟨(State.reset.setPc 0#16).placeWord 0x6A7B#16, .setImm 10 0x7B#8, rfl, rfl, by decide, by decide⟩
  · exact ⟨(State.reset.setPc 0xFFE#16).placeWord 0x6A7B#16, .setImm 10 0x7B#8, rfl, rfl, by decide, by decide⟩

theorem witness_FetchOutOfRangeHalts (p : Word) (hp : p = 0xFFF#16 ∨ p = 0xFFFF#16) :
    ∃ s : State, s.pc = p ∧ s.Running ∧ 0xFFF < s.pc.toNat + 1 := by
  rcases hp with rfl | rfl
  · exact ⟨State.reset.setPc 0xFFF#16, rfl, rfl, by decide⟩
  · exact ⟨State.reset.setPc 0xFFFF#16, rfl, rfl, by decide⟩

theorem witness_InvalidWordHalts :
    State.reset.Running ∧ State.reset.pc.toNat + 1 ≤ 0xFFF ∧
      decodeBytes [Memory.read State.reset.mem State.reset.pc.toNat, Memory.read State.reset.mem (State.reset.pc.toNat + 1)] =
        .error (.invalid 0#16) := ⟨rfl, by decide, by decide⟩

theorem witness_HaltedCoreDoesNotStep : ∃ (s : State) (r : HaltRecord), s.halt = some r :=
  ⟨start.haltedBy .ret .stackUnderflow none, _, rfl⟩

/-- The state before the idle JUMP 0x200 of TV-C4, which meets the invariant. -/
def idle : State := withBytes State.reset 0x200 [0x12#8, 0x00#8]

theorem idle_mem : idle.mem = [(0x200, 0x12#8)] := by decide

theorem idle_inv : idle.Inv where
  memory := by
    rw [idle_mem]
    refine ⟨by simp, ?_⟩
    intro c hc
    rw [List.mem_singleton] at hc
    subst hc
    decide
  font := by
    rw [idle_mem]
    intro c hc
    rw [List.mem_singleton] at hc
    subst hc
    decide
  index := by decide
  pc := by decide
  returns := by decide
  halt := (fun _ h => nomatch h)

theorem witness_StepKeepsInvariant : ∃ s t : State, s.Inv ∧ step s = .next t := ⟨idle, _, idle_inv, rfl⟩

theorem witness_ReachableStatesMeetInvariant :
    Reachable idle ∧ ∃ t, cycle (draws 0 0#8) (idle.hostOp (.setKeys 1#16)) = .next t ∧ Reachable t :=
  have h : Reachable idle := .reset (rom := [0x12#8, 0x00#8]) rfl
  ⟨h, _, rfl, .cycle (draws 0 0#8) (.host (.setKeys 1#16) h) rfl⟩

theorem witness_FontNeverReprogrammed :
    InFont 0x050 ∧ InFont 0x09F ∧ ∃ t, step ((start.setI 0x050#16).placeWord 0xF055#16) = .next t := ⟨by decide, by decide, _, rfl⟩

/-- A fault without an address, one at the address I, one at a higher address. -/
theorem witness_FaultsArePrecise :
    start.Running ∧
    (∃ t r, exec .ret start = .next t ∧ t.halt = some r ∧ r.code = .stackUnderflow) ∧
    (∃ t r, exec (.save 0) (start.setI 0x09F#16) = .next t ∧ t.halt = some r ∧ r.code = .fontWrite ∧ r.addr = some 0x09F) ∧
    (∃ t r, exec (.draw 0 1 2) (start.setI 0xFFF#16) = .next t ∧ t.halt = some r ∧ r.code = .memRange ∧ r.addr = some 0x1000) :=
  ⟨rfl, ⟨_, _, rfl, rfl, rfl⟩, ⟨_, _, rfl, rfl, rfl, rfl⟩, ⟨_, _, rfl, rfl, rfl, rfl⟩⟩

theorem witness_FaultsOfEachInstruction :
    start.Running ∧ (∃ t r, exec (.call 0x300#16) { start with sp := 16 } = .next t ∧ t.halt = some r) ∧
    (∃ t r, exec (.skipPressed 0) (withRegs start [(0, 16#8)]) = .next t ∧ t.halt = some r) ∧
    (∃ t r, exec (.bcd 0) (start.setI 0xFFE#16) = .next t ∧ t.halt = some r) ∧
    (∃ t r, exec (.load 15) (start.setI 0xFF1#16) = .next t ∧ t.halt = some r) :=
  ⟨rfl, ⟨_, _, rfl, rfl⟩, ⟨_, _, rfl, rfl⟩, ⟨_, _, rfl, rfl⟩, ⟨_, _, rfl, rfl⟩⟩

/-- READ_DELAY under the clause on the random byte, RAND under the clause on the time. -/
theorem witness_CycleInputsReadOnlyWhereNamed :
    ((∀ x nn, Instr.readDelay 1 ≠ .rand x nn) ∧ ∃ t, exec (.readDelay 1) start = .next t) ∧
    ((∀ x, Instr.rand 1 0xFF#8 ≠ .readDelay x ∧ Instr.rand 1 0xFF#8 ≠ .setDelay x ∧ Instr.rand 1 0xFF#8 ≠ .setSound x) ∧
      ∃ t, exec (.rand 1 0xFF#8) start = .next t) :=
  ⟨⟨(fun _ _ h => nomatch h), _, rfl⟩, ⟨(fun _ => ⟨(fun h => nomatch h), (fun h => nomatch h), (fun h => nomatch h)⟩), _, rfl⟩⟩

theorem witness_FramebufferReachedByClearAndDrawOnly :
    Instr.save 3 ≠ .clear ∧ (∀ x y n, Instr.save 3 ≠ .draw x y n) ∧ ∃ t, exec (.save 3) start = .next t :=
  ⟨(fun h => nomatch h), (fun _ _ _ h => nomatch h), _, rfl⟩

/-- LOAD of V0..VE, which stops one short of VF, and ADD_IMM of VE. -/
theorem witness_VfChangesOnlyAsListed :
    ((∃ t, exec (.load 14) start = .next t) ∧ ¬ setsFlag (.load 14) ∧ ¬ namesDestination VF (.load 14)) ∧
    ((∃ t, exec (.addImm 14 1#8) start = .next t) ∧ ¬ setsFlag (.addImm 14 1#8) ∧ ¬ namesDestination VF (.addImm 14 1#8)) :=
  ⟨⟨⟨_, rfl⟩, fun h => h, by unfold namesDestination; decide⟩, ⟨⟨_, rfl⟩, fun h => h, by unfold namesDestination; decide⟩⟩

/-- The addresses at both ends of their field. -/
theorem witness_JumpTargets : (0x000#16).toNat ≤ 0xFFF ∧ (0xFFF#16).toNat ≤ 0xFFF := by decide

/-- The same for SET_INDEX. -/
theorem witness_SetIndexAndPointChar : (0x000#16).toNat ≤ 0xFFF ∧ (0xFFF#16).toNat ≤ 0xFFF := by decide

/-- The depths where CALL and RETURN are at their bounds. -/
theorem witness_CallPushesAndReturnPops :
    (∃ s : State, s.sp.val = 0 ∧ s.sp.val < 16) ∧ (∃ s : State, s.sp.val = 15 ∧ s.sp.val < 16) ∧
    (∃ (s : State) (k : Fin 16), s.sp.val = 1 ∧ 0 < s.sp.val ∧ k.val + 1 = s.sp.val) ∧
    (∃ (s : State) (k : Fin 16), s.sp.val = 16 ∧ 0 < s.sp.val ∧ k.val + 1 = s.sp.val) :=
  ⟨⟨start, by decide, by decide⟩, ⟨{ start with sp := 15 }, by decide, by decide⟩,
    ⟨{ start with sp := 1 }, 0, by decide, by decide, by decide⟩, ⟨{ start with sp := 16 }, 15, by decide, by decide, by decide⟩⟩

theorem witness_StackFaults : (∃ s : State, s.sp.val = 16) ∧ (∃ s : State, s.sp.val = 0) :=
  ⟨⟨{ start with sp := 16 }, rfl⟩, ⟨start, rfl⟩⟩

theorem witness_CallThenReturn :
    ∃ s t u : State, s.sp.val = 15 ∧ s.sp.val < 16 ∧ exec (.call 0xFFF#16) s = .next t ∧ u.stack = t.stack ∧ u.sp = t.sp :=
  ⟨{ start with sp := 15 }, _, _, rfl, by decide, rfl, rfl, rfl⟩

theorem witness_ControlFlowFrame :
    (∃ t, exec (.jump 0xFFF#16) start = .next t) ∧ (∃ t, exec (.jumpOffset 0xFFF#16) start = .next t) ∧
    (∃ t, exec (.skipEqImm 0 0#8) start = .next t) ∧ (∃ t, exec (.skipNeImm 0 1#8) start = .next t) ∧
    (∃ t, exec (.skipEqReg 0 1) start = .next t) ∧ (∃ t, exec (.skipNeReg 0 1) start = .next t) ∧
    (∃ t, exec (.call 0x300#16) start = .next t ∧ t.halt = none) ∧
    (∃ t, exec .ret (start.push 0x206#16 (by decide)) = .next t ∧ t.halt = none) :=
  ⟨⟨_, rfl⟩, ⟨_, rfl⟩, ⟨_, rfl⟩, ⟨_, rfl⟩, ⟨_, rfl⟩, ⟨_, rfl⟩, ⟨_, rfl, rfl⟩, ⟨_, rfl, rfl⟩⟩

theorem witness_RegisterFrame :
    (∃ t, exec (.setImm 15 1#8) start = .next t) ∧ (∃ t, exec (.addImm 15 1#8) start = .next t) ∧
    (∃ t, exec (.copy 15 0) start = .next t) ∧ (∃ t, exec (.orReg 15 0) start = .next t) ∧
    (∃ t, exec (.andReg 15 0) start = .next t) ∧ (∃ t, exec (.xorReg 15 0) start = .next t) ∧
    (∃ t, exec (.rand 15 1#8) start = .next t) ∧ (∃ t, exec (.readDelay 15) start = .next t) ∧
    (∃ t, exec (.addReg 15 0) start = .next t) ∧ (∃ t, exec (.sub 15 0) start = .next t) ∧
    (∃ t, exec (.shiftRight 15 0) start = .next t) ∧ (∃ t, exec (.subn 15 0) start = .next t) ∧
    (∃ t, exec (.shiftLeft 15 0) start = .next t) :=
  ⟨⟨_, rfl⟩, ⟨_, rfl⟩, ⟨_, rfl⟩, ⟨_, rfl⟩, ⟨_, rfl⟩, ⟨_, rfl⟩, ⟨_, rfl⟩, ⟨_, rfl⟩, ⟨_, rfl⟩, ⟨_, rfl⟩, ⟨_, rfl⟩, ⟨_, rfl⟩, ⟨_, rfl⟩⟩

theorem witness_IndexFrame :
    (∃ t, exec (.setIndex 0xFFF#16) start = .next t) ∧ (∃ t, exec (.pointChar 15) start = .next t) ∧
    (∃ t, exec (.addIndex 15) start = .next t) := ⟨⟨_, rfl⟩, ⟨_, rfl⟩, ⟨_, rfl⟩⟩

/-- A span of BCD that ends just below the font, begins just above it, and ends at the top of memory; each class of
values of Vx. -/
theorem witness_BcdResult :
    (∀ i ∈ [0x04D, 0x0A0, 0xFFD], ∃ s : State, s.i.toNat = i ∧ ∀ k < 3, ¬ BadWrite (s.i.toNat + k)) ∧
    (∀ v ∈ [0, 9, 10, 99, 100, 255], ∃ s : State, (s.reg 1).toNat = v) := by
  constructor
  · intro i hi
    refine ⟨start.setI (BitVec.ofNat 16 i), ?_⟩
    fin_cases hi <;> exact ⟨rfl, by unfold BadWrite; decide⟩
  · intro v hv
    refine ⟨start.setReg 1 (BitVec.ofNat 8 v), ?_⟩
    fin_cases hv <;> rfl

/-- SAVE of V0..VF just below the font, just above it and at the top of memory. -/
theorem witness_SaveResult :
    ∀ i ∈ [0x040, 0x0A0, 0xFF0], ∃ s : State, s.i.toNat = i ∧ ∀ k ≤ (15 : Reg).val, ¬ BadWrite (s.i.toNat + k) := by
  intro i hi
  refine ⟨start.setI (BitVec.ofNat 16 i), ?_⟩
  fin_cases hi <;> exact ⟨rfl, by unfold BadWrite; decide⟩

theorem witness_LoadResult : ∃ s : State, s.i.toNat + (15 : Reg).val = 0xFFF ∧ s.i.toNat + (15 : Reg).val ≤ 0xFFF :=
  ⟨start.setI 0xFF0#16, by decide, by decide⟩

/-- The lowest bad address is the first of the span, or its last: of the font from below and from its end, and of
the top of memory. -/
theorem witness_MemoryFaults :
    (∃ s : State, LowestBad BadWrite s.i.toNat 3 0x050 ∧ badWriteCode 0x050 = .fontWrite) ∧
    (∃ s : State, LowestBad BadWrite s.i.toNat ((0 : Reg).val + 1) 0x09F ∧ badWriteCode 0x09F = .fontWrite) ∧
    (∃ s : State, LowestBad BadWrite s.i.toNat 3 0x1000 ∧ badWriteCode 0x1000 = .memRange) ∧
    (∃ s : State, LowestBad BadRead s.i.toNat ((15 : Reg).val + 1) 0x1000) ∧
    (∃ s : State, LowestBad BadRead s.i.toNat 1 0xFFFF) := by
  refine ⟨⟨start.setI 0x04E#16, ?_, rfl⟩, ⟨start.setI 0x09F#16, ?_, rfl⟩, ⟨start.setI 0xFFE#16, ?_, rfl⟩,
    ⟨start.setI 0xFF1#16, ?_⟩, ⟨start.setI 0xFFFF#16, ?_⟩⟩
  all_goals
    simp only [LowestBad, BadWrite, BadRead, InFont, State.setI_i, BitVec.reduceToNat]
    refine ⟨by decide, by decide, by decide, fun b _ _ => by omega⟩

theorem witness_MemoryFrame :
    (∃ t, exec (.bcd 15) (start.setI 0x300#16) = .next t ∧ t.halt = none) ∧
    (∃ t, exec (.save 15) (start.setI 0x300#16) = .next t ∧ t.halt = none) ∧
    (∃ t, exec (.load 14) (start.setI 0x300#16) = .next t ∧ t.halt = none) ∧ (14 : Reg) < 15 :=
  ⟨⟨_, rfl, rfl⟩, ⟨_, rfl, rfl⟩, ⟨_, rfl, rfl⟩, by decide⟩

theorem witness_SaveThenLoad :
    ∃ s t u : State, (∀ k ≤ (15 : Reg).val, ¬ BadWrite (s.i.toNat + k)) ∧ exec (.save 15) s = .next t ∧ u.mem = t.mem ∧ u.i = s.i :=
  ⟨start.setI 0x300#16, _, { start with i := 0x300#16, mem := _ }, by unfold BadWrite; decide, rfl, rfl, rfl⟩

/-- n = 0 with I past the end of memory, and a sprite whose last byte is the last of memory. -/
theorem witness_DrawXorsTheSprite :
    (∃ (s : State) (n : Nat), n = 0 ∧ 0xFFF < s.i.toNat ∧ (n = 0 ∨ s.i.toNat + (n - 1) ≤ 0xFFF)) ∧
    (∃ (s : State) (n : Nat), s.i.toNat + (n - 1) = 0xFFF ∧ n = 15 ∧ (n = 0 ∨ s.i.toNat + (n - 1) ≤ 0xFFF)) :=
  ⟨⟨start.setI 0xFFFF#16, 0, rfl, by decide, by decide⟩, ⟨start.setI 0xFF1#16, 15, by decide, rfl, by decide⟩⟩

/-- The two classes of a draw: a 1-bit meets a lit pixel, or none does. -/
theorem witness_SpriteMeets :
    SpriteMeets ((withBytes (start.setI 0x300#16) 0x300 [0x80#8]).setFb (start.fb.writePixel 0 0 true)) 0 1 1 true ∧
    ¬ SpriteMeets start 0 1 0 true := by
  constructor
  · exact ⟨0, 0, by decide, by decide⟩
  · rintro ⟨px, py, h, -⟩
    simp only [spriteBit, Bool.and_eq_true, decide_eq_true_eq] at h
    omega

theorem witness_DrawTwiceRestoresScreen :
    ∃ s t : State, ((1 : Nat) = 0 ∨ s.i.toNat + (1 - 1) ≤ 0xFFF) ∧ exec (.draw 0 1 1) s = .next t ∧
      (t.reg 0).toNat % 64 = (s.reg 0).toNat % 64 ∧ (t.reg 1).toNat % 32 = (s.reg 1).toNat % 32 :=
  ⟨start.setI 0xFFF#16, _, by decide, rfl, by decide, by decide⟩

theorem witness_DisplayFrame :
    (∃ t, exec .clear start = .next t) ∧ (∃ t, exec (.draw 0 1 15) (start.setI 0xFF1#16) = .next t ∧ t.halt = none) :=
  ⟨⟨_, rfl⟩, ⟨_, rfl, rfl⟩⟩

theorem witness_KeySkips : (∃ s : State, (s.reg 1).toNat = 15 ∧ (s.reg 1).toNat ≤ 15) ∧ (∃ s : State, (s.reg 1).toNat = 16 ∧ 15 < (s.reg 1).toNat) :=
  ⟨⟨start.setReg 1 15#8, by decide, by decide⟩, ⟨start.setReg 1 16#8, by decide, by decide⟩⟩

theorem witness_WaitKeyTakesLowestKey :
    (∃ s : State, s.keys.getLsbD (15 : Reg).val = true ∧ ∀ j : Reg, j < 15 → s.keys.getLsbD j.val = false) ∧
    (∃ s : State, s.keys.getLsbD (3 : Reg).val = true ∧ s.keys.getLsbD (9 : Reg).val = true ∧ ∀ j : Reg, j < 3 → s.keys.getLsbD j.val = false) ∧
    (∃ s : State, ∀ j : Reg, s.keys.getLsbD j.val = false) :=
  ⟨⟨start.setKeys 0x8000#16, by decide⟩, ⟨start.setKeys 0x0208#16, by decide⟩, ⟨start, by decide⟩⟩

/-- A delay set at 0, and one set before time 0 and read long after it. -/
theorem witness_SetDelayThenRead :
    (∃ s t u : State, exec (.setDelay 1) s = .next t ∧ u.dt = t.dt ∧ s.input.now = 0) ∧
    (∃ s t u : State, exec (.setDelay 1) s = .next t ∧ u.dt = t.dt ∧ s.input.now ≠ 0 ∧
      u.input.now.toInt = s.input.now.toInt + (100000 : Nat)) := by
  refine ⟨⟨start, _, _, rfl, rfl, by decide⟩, ?_⟩
  let s := start.setInput (draws (-1000) 0#8)
  exact ⟨s, s.setDt (Timer.load (s.reg 1) s.input.now), (s.setDt (Timer.load (s.reg 1) s.input.now)).setInput (draws 99000 0#8),
    rfl, rfl, by decide, by decide⟩

theorem witness_KeysTimersFrame :
    (∃ t, exec (.skipPressed 1) start = .next t ∧ t.halt = none) ∧ (∃ t, exec (.skipNotPressed 1) start = .next t ∧ t.halt = none) ∧
    (∃ t, exec (.waitKey 1) (start.setKeys 0x8000#16) = .next t) ∧ (∃ t, exec (.setDelay 1) start = .next t) ∧
    (∃ t, exec (.setSound 1) start = .next t) := ⟨⟨_, rfl, rfl⟩, ⟨_, rfl, rfl⟩, ⟨_, rfl⟩, ⟨_, rfl⟩, ⟨_, rfl⟩⟩

/-- For the clauses of RefreshBeeperMirrorsSoundTimer and SetKeysReplacesAllKeys on a cycle. -/
theorem witness_cycle_next : ∃ t, cycle (draws 5 7#8) idle = .next t := ⟨_, rfl⟩

/-- The two ranges of ResetValues' clause on memory. -/
theorem witness_ResetValues : ¬ InFont 0x04F ∧ ¬ InFont 0x0A0 ∧ InFont (0x050 + (79 : Fin 80).val) := by decide

theorem witness_ResetPlacesRom :
    (∃ rom : List Byte, rom.length = 0 ∧ rom.length ≤ 3584) ∧ (∃ rom : List Byte, rom.length = 3584 ∧ rom.length ≤ 3584) ∧
    (∃ rom : List Byte, rom.length = 3585 ∧ 3584 < rom.length) := by
  refine ⟨⟨[], by simp⟩, ⟨List.replicate 3584 1#8, ?_⟩, ⟨List.replicate 3585 1#8, ?_⟩⟩ <;>
    simp only [List.length_replicate] <;> decide

theorem witness_SelfJumpIdles : idle.AtSelfJump := ⟨rfl, by decide, by decide⟩

end Sys2Proof.Tests
end

section
/-! The pixel write (10_state.md R56), bit by bit over every byte of the framebuffer. -/
namespace Sys2Proof.Machine

/-- A bit of the framebuffer after a pixel write: the value at the pixel's byte and bit, what was there elsewhere (R56). -/
theorem Framebuffer.getLsbD_writePixel (fb : Framebuffer) (x : Fin 64) (y : Fin 32) (p : Bool) (j : Fin 256) {b : Nat}
    (hb : b < 8) :
    ((fb.writePixel x y p)[j]).getLsbD b = if j = pixelByte x y ∧ b = pixelBit x y then p else (fb[j]).getLsbD b := by
  unfold Framebuffer.writePixel
  simp only [Fin.getElem_fin, Vector.getElem_set]
  by_cases hj : j = pixelByte x y
  · subst hj
    simp only [if_true, true_and]
    exact setBit_getLsbD _ _ _ _ (pixelBit_lt x y) hb
  · have hval : (pixelByte x y).val ≠ j.val := fun e => hj (Fin.ext e.symm)
    simp only [if_neg hval, hj, false_and, if_false]

/-- Settles O46: the bits by the law of a written bit, the pixels by the law of a written pixel. -/
theorem writePixelSetsOneBit : Obligations.WritePixelSetsOneBit := by
  intro fb x y p
  refine ⟨fun j b hb => ?_, fb.readPixel_writePixel x y p⟩
  rw [fb.getLsbD_writePixel x y p j hb]
  simp only [Fin.ext_iff, pixelByte, pixelBit]

end Sys2Proof.Machine
end

section
/-! Decoding against the opcode table (30_encoding.md R118). A decoded word is the encoding of its instruction, whose
row it matches; a word that matches a row has the fields the decoder dispatches on. -/
namespace Sys2Proof.Laws

/-! ## The word of what a word decodes to -/

theorem pack_fields (w : Word) : pack (fieldOp w) (regField (fieldX w)) (regField (fieldY w)) (fieldN w) = w := by
  apply BitVec.eq_of_toNat_eq
  rw [pack_toNat, regField_toNat, regField_toNat, fieldOp_toNat, fieldX_val, fieldY_val, fieldN_toNat]
  omega

theorem packByte_fields (w : Word) : packByte (fieldOp w) (regField (fieldX w)) (fieldNn w) = w := by
  apply BitVec.eq_of_toNat_eq
  rw [packByte_toNat, regField_toNat, fieldOp_toNat, fieldX_val, fieldNn_toNat]
  omega

theorem packAddress_fields (w : Word) : packAddress (fieldOp w) ((fieldNnn w).setWidth 16) = w := by
  apply BitVec.eq_of_toNat_eq
  rw [packAddress_toNat, BitVec.toNat_setWidth, fieldOp_toNat, fieldNnn_toNat]
  omega

theorem encode_of_decodeAlu {x y : Reg} {n : BitVec 4} {i : Instr} (h : decodeAlu x y n = some i) :
    encode i = pack 0x8#4 (regField x) (regField y) n := by
  unfold decodeAlu at h
  split at h <;> cases h <;> rfl

theorem encode_of_decodeKey {x : Reg} {nn : Byte} {i : Instr} (h : decodeKey x nn = some i) :
    encode i = packByte 0xE#4 (regField x) nn := by
  unfold decodeKey at h
  split at h <;> cases h <;> rfl

theorem encode_of_decodeMisc {x : Reg} {nn : Byte} {i : Instr} (h : decodeMisc x nn = some i) :
    encode i = packByte 0xF#4 (regField x) nn := by
  unfold decodeMisc at h
  split at h <;> cases h <;> rfl

/-- Decoding loses nothing of the word: each branch of the dispatch fixes the fields its instruction does not hold. -/
theorem encode_of_decodeWord {w : Word} {i : Instr} (h : decodeWord w = some i) : encode i = w := by
  have hpack := pack_fields w
  have hbyte := packByte_fields w
  have haddr := packAddress_fields w
  unfold decodeWord at h
  split at h
  -- Case h_k is the top nibble k - 1, h_17 the wildcard.
  case h_1 hop =>
    rw [hop] at haddr
    split at h
    · next hnnn => cases h; rw [hnnn] at haddr; exact haddr
    · split at h
      · next hnnn => cases h; rw [hnnn] at haddr; exact haddr
      · cases h
  case h_2 hop | h_3 hop | h_11 hop | h_12 hop => cases h; rw [hop] at haddr; exact haddr
  case h_4 hop | h_5 hop | h_7 hop | h_8 hop | h_13 hop => cases h; rw [hop] at hbyte; exact hbyte
  case h_6 hop | h_10 hop =>
    split at h
    · next hn => cases h; rw [hop, hn] at hpack; exact hpack
    · cases h
  case h_9 hop => rw [encode_of_decodeAlu h, ← hop, hpack]
  case h_14 hop => cases h; rw [hop] at hpack; simpa [encode] using hpack
  case h_15 hop => rw [encode_of_decodeKey h, ← hop, hbyte]
  case h_16 hop => rw [encode_of_decodeMisc h, ← hop, hbyte]
  case h_17 => cases h

/-- The word of an instruction lies in the instruction's own row, whatever the instruction. -/
theorem encode_matches_row : (i : Instr) → RowMatch.Statement i
  | .clear => RowMatch.clear
  | .ret => RowMatch.ret
  | .jump nnn => RowMatch.jump nnn
  | .call nnn => RowMatch.call nnn
  | .skipEqImm x nn => RowMatch.skipEqImm x nn
  | .skipNeImm x nn => RowMatch.skipNeImm x nn
  | .skipEqReg x y => RowMatch.skipEqReg x y
  | .setImm x nn => RowMatch.setImm x nn
  | .addImm x nn => RowMatch.addImm x nn
  | .copy x y => RowMatch.copy x y
  | .orReg x y => RowMatch.orReg x y
  | .andReg x y => RowMatch.andReg x y
  | .xorReg x y => RowMatch.xorReg x y
  | .addReg x y => RowMatch.addReg x y
  | .sub x y => RowMatch.sub x y
  | .shiftRight x y => RowMatch.shiftRight x y
  | .subn x y => RowMatch.subn x y
  | .shiftLeft x y => RowMatch.shiftLeft x y
  | .skipNeReg x y => RowMatch.skipNeReg x y
  | .setIndex nnn => RowMatch.setIndex nnn
  | .jumpOffset nnn => RowMatch.jumpOffset nnn
  | .rand x nn => RowMatch.rand x nn
  | .draw x y n => RowMatch.draw x y n
  | .skipPressed x => RowMatch.skipPressed x
  | .skipNotPressed x => RowMatch.skipNotPressed x
  | .readDelay x => RowMatch.readDelay x
  | .waitKey x => RowMatch.waitKey x
  | .setDelay x => RowMatch.setDelay x
  | .setSound x => RowMatch.setSound x
  | .addIndex x => RowMatch.addIndex x
  | .pointChar x => RowMatch.pointChar x
  | .bcd x => RowMatch.bcd x
  | .save x => RowMatch.save x
  | .load x => RowMatch.load x

/-- A decoded word matches the row of its instruction. -/
theorem matches_row_of_decodeWord {w : Word} {i : Instr} (h : decodeWord w = some i) :
    w &&& (opcodeRow i.rowIndex).mask = (opcodeRow i.rowIndex).pattern := by
  have hrow : encode i &&& (opcodeRow i.rowIndex).mask = (opcodeRow i.rowIndex).pattern := encode_matches_row i
  rwa [encode_of_decodeWord h] at hrow

/-! ## The fields of a word that matches a row -/

theorem fieldOp_of_and_eq {w m p : Word} (h : w &&& m = p) (hm : fieldOp m = 0xF#4) : fieldOp w = fieldOp p := by
  have hand : fieldOp (w &&& m) = fieldOp w &&& fieldOp m := BitVec.extractLsb'_and
  rw [← h, hand, hm]
  exact BitVec.and_allOnes.symm

theorem fieldN_of_and_eq {w m p : Word} (h : w &&& m = p) (hm : fieldN m = 0xF#4) : fieldN w = fieldN p := by
  have hand : fieldN (w &&& m) = fieldN w &&& fieldN m := BitVec.extractLsb'_and
  rw [← h, hand, hm]
  exact BitVec.and_allOnes.symm

theorem fieldNn_of_and_eq {w m p : Word} (h : w &&& m = p) (hm : fieldNn m = 0xFF#8) : fieldNn w = fieldNn p := by
  have hand : fieldNn (w &&& m) = fieldNn w &&& fieldNn m := BitVec.extractLsb'_and
  rw [← h, hand, hm]
  exact BitVec.and_allOnes.symm

/-- Every mask of the table keeps the top nibble (R120). -/
theorem fieldOp_mask (k : Fin 34) : fieldOp (opcodeRow k).mask = 0xF#4 := by
  revert k; decide

/-- A word that matches a row decodes to an instruction of it: the mask of the row keeps the fields on which the
dispatch to the row depends, so those fields are the pattern's. -/
theorem decodeWord_of_matches_row {w : Word} {k : Fin 34} (h : w &&& (opcodeRow k).mask = (opcodeRow k).pattern) :
    ∃ i, decodeWord w = some i ∧ i.rowIndex = k := by
  have hop : fieldOp w = fieldOp (opcodeRow k).pattern := fieldOp_of_and_eq h (fieldOp_mask k)
  have hn := fieldN_of_and_eq h
  have hnn := fieldNn_of_and_eq h
  unfold decodeWord
  match k with
  -- Mask 0xFFFF: CLEAR and RETURN.
  | 0 | 1 =>
    obtain rfl : w = _ := BitVec.and_allOnes.symm.trans h
    exact ⟨_, rfl, rfl⟩
  -- Mask 0xF000: the top nibble decides.
  | 2 | 3 | 4 | 5 | 7 | 8 | 19 | 20 | 21 | 22 => rw [hop]; exact ⟨_, rfl, rfl⟩
  -- Mask 0xF00F: the top and the low nibble decide.
  | 6 | 9 | 10 | 11 | 12 | 13 | 14 | 15 | 16 | 17 | 18 =>
    rw [hop, hn rfl]; exact ⟨_, rfl, rfl⟩
  -- Mask 0xF0FF: the top nibble and the low byte decide.
  | 23 | 24 | 25 | 26 | 27 | 28 | 29 | 30 | 31 | 32 | 33 =>
    rw [hop, hnn rfl]; exact ⟨_, rfl, rfl⟩
  | ⟨_ + 34, hlt⟩ => omega

/-! ## The table -/

theorem decodes_to_row_iff_matches (w : Word) (k : Fin 34) :
    (∃ i, decodeWord w = some i ∧ i.rowIndex = k) ↔ w &&& (opcodeRow k).mask = (opcodeRow k).pattern := by
  constructor
  · rintro ⟨i, hi, rfl⟩
    exact matches_row_of_decodeWord hi
  · exact decodeWord_of_matches_row

theorem decodeWord_eq_none_iff (w : Word) :
    decodeWord w = none ↔ ∀ k : Fin 34, w &&& (opcodeRow k).mask ≠ (opcodeRow k).pattern := by
  constructor
  · intro hnone k h
    obtain ⟨i, hi, -⟩ := decodeWord_of_matches_row h
    rw [hnone] at hi
    cases hi
  · intro h
    by_contra hsome
    obtain ⟨i, hi⟩ := Option.ne_none_iff_exists'.mp hsome
    exact h i.rowIndex (matches_row_of_decodeWord hi)

/-- A word that matched two rows would decode to instructions of both. -/
theorem row_eq_of_matches {w : Word} {j k : Fin 34} (hj : w &&& (opcodeRow j).mask = (opcodeRow j).pattern)
    (hk : w &&& (opcodeRow k).mask = (opcodeRow k).pattern) : j = k := by
  obtain ⟨i, hi, rfl⟩ := decodeWord_of_matches_row hj
  obtain ⟨i', hi', rfl⟩ := decodeWord_of_matches_row hk
  rw [Option.some.inj (hi.symm.trans hi')]

/-- Settles O3: decoding to a row and matching it imply each other, and a word decodes to at most one instruction. -/
theorem decodeFollowsOpcodeTable : Obligations.DecodeFollowsOpcodeTable :=
  ⟨decodes_to_row_iff_matches, decodeWord_eq_none_iff, fun _ _ _ => row_eq_of_matches⟩

end Sys2Proof.Laws
end

section
/-! The jumps (41_control_flow.md R162, R168): their words, the frame of a write to PC, and their targets. -/
namespace Sys2Proof.Machine

/-! ## The word of an instruction, both ways -/

/-- The value of an encoding is a word of its instruction as soon as the encoding decodes back. -/
theorem isWordOf_of_decodeWord_encode {w : Nat} {i : Instr} (hdecode : decodeWord (encode i) = some i)
    (hvalue : (encode i).toNat = w) : IsWordOf w i := by
  refine ⟨?_, hvalue⟩
  rw [← hvalue, BitVec.ofNat_toNat, BitVec.setWidth_eq, hdecode]

theorem decodeWord_encode_jump {nnn : Word} (h : addressFits nnn = true) :
    decodeWord (encode (.jump nnn)) = some (.jump nnn) := by
  simp [encode, decodeWord, address_roundtrip h]

theorem decodeWord_encode_jumpOffset {nnn : Word} (h : addressFits nnn = true) :
    decodeWord (encode (.jumpOffset nnn)) = some (.jumpOffset nnn) := by
  simp [encode, decodeWord, address_roundtrip h]

/-- In format A, an address that fits its field is added to the opcode nibble (30_encoding.md R112). -/
theorem packAddress_toNat_of_fits {nnn : Word} (op : BitVec 4) (h : nnn.toNat ≤ 0xFFF) :
    (packAddress op nnn).toNat = op.toNat * 4096 + nnn.toNat := by
  rw [packAddress_toNat, Nat.mod_eq_of_lt (by omega)]

theorem isWordOf_jump {nnn : Word} (h : nnn.toNat ≤ 0xFFF) : IsWordOf (0x1000 + nnn.toNat) (.jump nnn) :=
  isWordOf_of_decodeWord_encode (decodeWord_encode_jump (decide_eq_true h)) (packAddress_toNat_of_fits 0x1#4 h)

theorem isWordOf_jumpOffset {nnn : Word} (h : nnn.toNat ≤ 0xFFF) :
    IsWordOf (0xB000 + nnn.toNat) (.jumpOffset nnn) :=
  isWordOf_of_decodeWord_encode (decodeWord_encode_jumpOffset (decide_eq_true h)) (packAddress_toNat_of_fits 0xB#4 h)

/-! ## What the jumps do -/

theorem exec_jump (nnn : Word) (s : State) : exec (.jump nnn) s = .next (s.setPc nnn) := rfl

theorem exec_jumpOffset (nnn : Word) (s : State) :
    exec (.jumpOffset nnn) s = .next (s.setPc (jumpOffsetTarget Config.current.jumpOffsetMode nnn s.v)) := rfl

theorem onlyChanges_setPc (s : State) (p : Word) : OnlyChanges [.pc] s (s.setPc p) := by
  apply OnlyChanges.of_fields
  case pc => intro h; simp at h
  all_goals simp

/-! ## The target of JUMP_OFFSET -/

/-- The digit `x` of an address, of one that exceeds its field too: both sides wrap at 16. -/
theorem digitX_eq_ofNat (nnn : Word) : digitX nnn = Fin.ofNat 16 (nnn.toNat / 256) := by
  apply Fin.ext
  simp only [digitX, BitVec.val_toFin, BitVec.extractLsb'_toNat, Nat.shiftRight_eq_div_pow, Fin.val_ofNat]

theorem lowByte_toNat (nnn : Word) : (lowByte nnn).toNat = nnn.toNat % 256 := by
  simp only [lowByte, BitVec.extractLsb'_toNat, Nat.shiftRight_zero]

theorem jumpOffsetTarget_bnnn_toNat (nnn : Word) (s : State) :
    (jumpOffsetTarget .bnnn nnn s.v).toNat = ((s.reg 0).toNat + nnn.toNat) % 4096 := masked12_toNat _

theorem jumpOffsetTarget_bxnn_toNat (nnn : Word) (s : State) :
    (jumpOffsetTarget .bxnn nnn s.v).toNat =
      ((s.reg (Fin.ofNat 16 (nnn.toNat / 256))).toNat + nnn.toNat % 256) % 4096 := by
  rw [← digitX_eq_ofNat, ← lowByte_toNat]
  exact masked12_toNat _

/-- Settles O21: both jumps are a write to PC alone, of the address itself or of the target of the mode. -/
theorem jumpTargets : Obligations.JumpTargets := by
  refine ⟨fun nnn h => ⟨isWordOf_jump h, isWordOf_jumpOffset h⟩,
    fun nnn s => ⟨_, exec_jump nnn s, s.setPc_pc nnn, onlyChanges_setPc s nnn⟩,
    fun nnn s => ⟨_, exec_jumpOffset nnn s, onlyChanges_setPc s _, ?bnnn, ?bxnn⟩⟩
  case bnnn => intro hmode; rw [hmode]; exact jumpOffsetTarget_bnnn_toNat nnn s
  case bxnn => intro hmode; rw [hmode]; exact jumpOffsetTarget_bxnn_toNat nnn s

end Sys2Proof.Machine
end

section
/-! The register instructions without a flag (42_register_alu.md R202 to R207): the words of their formats, and the
one write to Vx that each of them is. -/
namespace Sys2Proof.Machine

/-! ## Words of format XNN and of top nibble 0x8 -/

/-- In format XNN, register number and byte are added to the opcode nibble (30_encoding.md R112). -/
theorem isWordOf_of_packByte {i : Instr} {op : BitVec 4} {x : Reg} {nn : Byte}
    (hencode : encode i = packByte op (regField x) nn) (hdecode : decodeWord (packByte op (regField x) nn) = some i) :
    IsWordOf (op.toNat * 4096 + x.val * 256 + nn.toNat) i :=
  isWordOf_of_decodeWord_encode (hencode ▸ hdecode) (by rw [hencode, packByte_toNat, regField_toNat])

theorem decodeWord_pack_alu (x y : Reg) (n : BitVec 4) :
    decodeWord (pack 0x8#4 (regField x) (regField y) n) = decodeAlu x y n := by
  simp [decodeWord]

/-- Under top nibble 0x8, what the low nibble selects is what the packed word stands for (30_encoding.md R112, R119). -/
theorem isWordOf_of_decodeAlu {x y : Reg} {n : BitVec 4} {i : Instr} (h : decodeAlu x y n = some i) :
    IsWordOf (0x8000 + n.toNat + x.val * 256 + y.val * 16) i := by
  have hencode : encode i = pack 0x8#4 (regField x) (regField y) n := Laws.encode_of_decodeAlu h
  apply isWordOf_of_decodeWord_encode
  · rw [hencode, decodeWord_pack_alu, h]
  · rw [hencode, pack_toNat, regField_toNat, regField_toNat, BitVec.toNat_ofNat]
    omega

theorem isWordOf_setImm (x : Reg) (nn : Byte) : IsWordOf (0x6000 + x.val * 256 + nn.toNat) (.setImm x nn) :=
  isWordOf_of_packByte (op := 0x6#4) rfl (by simp [decodeWord])

theorem isWordOf_addImm (x : Reg) (nn : Byte) : IsWordOf (0x7000 + x.val * 256 + nn.toNat) (.addImm x nn) :=
  isWordOf_of_packByte (op := 0x7#4) rfl (by simp [decodeWord])

theorem isWordOf_copy (x y : Reg) : IsWordOf (0x8000 + x.val * 256 + y.val * 16) (.copy x y) :=
  isWordOf_of_decodeAlu (n := 0x0#4) rfl

theorem isWordOf_orReg (x y : Reg) : IsWordOf (0x8001 + x.val * 256 + y.val * 16) (.orReg x y) :=
  isWordOf_of_decodeAlu (n := 0x1#4) rfl

theorem isWordOf_andReg (x y : Reg) : IsWordOf (0x8002 + x.val * 256 + y.val * 16) (.andReg x y) :=
  isWordOf_of_decodeAlu (n := 0x2#4) rfl

theorem isWordOf_xorReg (x y : Reg) : IsWordOf (0x8003 + x.val * 256 + y.val * 16) (.xorReg x y) :=
  isWordOf_of_decodeAlu (n := 0x3#4) rfl

/-! ## The frame of a write to a register -/

theorem onlyRegs_setReg (s : State) (x : Reg) (b : Byte) : OnlyRegs [x] s (s.setReg x b) :=
  fun _ hr => s.reg_setReg_other b (List.ne_of_not_mem_cons hr)

theorem onlyChanges_setReg (s : State) (x : Reg) (b : Byte) : OnlyChanges [.registers] s (s.setReg x b) := by
  apply OnlyChanges.of_fields
  case registers => intro h; simp at h
  all_goals simp

/-! ## What the instructions do -/

theorem exec_setImm (x : Reg) (nn : Byte) (s : State) : exec (.setImm x nn) s = .next (s.setReg x nn) := rfl

theorem exec_addImm (x : Reg) (nn : Byte) (s : State) :
    exec (.addImm x nn) s = .next (s.setReg x (s.reg x + nn)) := rfl

theorem exec_copy (x y : Reg) (s : State) : exec (.copy x y) s = .next (s.setReg x (s.reg y)) := rfl

theorem exec_orReg (x y : Reg) (s : State) : exec (.orReg x y) s = .next (s.setReg x (s.reg x ||| s.reg y)) := rfl

theorem exec_andReg (x y : Reg) (s : State) : exec (.andReg x y) s = .next (s.setReg x (s.reg x &&& s.reg y)) := rfl

theorem exec_xorReg (x y : Reg) (s : State) : exec (.xorReg x y) s = .next (s.setReg x (s.reg x ^^^ s.reg y)) := rfl

/-- Settles O27: each of the three is a write to Vx alone, of the byte, of the sum or of Vy. -/
theorem setAddCopyResults : Obligations.SetAddCopyResults := by
  refine ⟨fun x y nn => ⟨isWordOf_setImm x nn, isWordOf_addImm x nn, isWordOf_copy x y⟩,
    fun x nn s => ⟨_, exec_setImm x nn s, s.reg_setReg_same x nn, onlyRegs_setReg s x _, onlyChanges_setReg s x _⟩,
    fun x nn s => ⟨_, exec_addImm x nn s, ?sum, onlyRegs_setReg s x _, onlyChanges_setReg s x _⟩,
    fun x y s => ⟨_, exec_copy x y s, s.reg_setReg_same x _, onlyRegs_setReg s x _, onlyChanges_setReg s x _⟩⟩
  case sum => rw [State.reg_setReg_same, BitVec.toNat_add]

/-- Settles O28: each of the three is a write to Vx alone, of Vx and Vy combined bit by bit. -/
theorem logicResults : Obligations.LogicResults := by
  refine ⟨fun x y => ⟨isWordOf_orReg x y, isWordOf_andReg x y, isWordOf_xorReg x y⟩,
    fun x y s => ⟨_, exec_orReg x y s, onlyRegs_setReg s x _, onlyChanges_setReg s x _, fun k _ => ?or⟩,
    fun x y s => ⟨_, exec_andReg x y s, onlyRegs_setReg s x _, onlyChanges_setReg s x _, fun k _ => ?and⟩,
    fun x y s => ⟨_, exec_xorReg x y s, onlyRegs_setReg s x _, onlyChanges_setReg s x _, fun k _ => ?xor⟩⟩
  case or => rw [State.reg_setReg_same, BitVec.getLsbD_or]
  case and => rw [State.reg_setReg_same, BitVec.getLsbD_and]
  case xor => rw [State.reg_setReg_same, BitVec.getLsbD_xor]

end Sys2Proof.Machine
end

section
/-! SET_INDEX and POINT_CHAR (43_index_memory.md R251, R253): their words, and the one write to I that each is. -/
namespace Sys2Proof.Machine

/-! ## Words -/

theorem decodeWord_encode_setIndex {nnn : Word} (h : addressFits nnn = true) :
    decodeWord (encode (.setIndex nnn)) = some (.setIndex nnn) := by
  simp [encode, decodeWord, address_roundtrip h]

theorem isWordOf_setIndex {nnn : Word} (h : nnn.toNat ≤ 0xFFF) : IsWordOf (0xA000 + nnn.toNat) (.setIndex nnn) :=
  isWordOf_of_decodeWord_encode (decodeWord_encode_setIndex (decide_eq_true h)) (packAddress_toNat_of_fits 0xA#4 h)

theorem decodeWord_packByte_misc (x : Reg) (nn : Byte) :
    decodeWord (packByte 0xF#4 (regField x) nn) = decodeMisc x nn := by
  simp [decodeWord]

/-- Under top nibble 0xF, what the low byte selects is what the packed word stands for (30_encoding.md R112, R119). -/
theorem isWordOf_of_decodeMisc {x : Reg} {nn : Byte} {i : Instr} (h : decodeMisc x nn = some i) :
    IsWordOf (0xF000 + nn.toNat + x.val * 256) i := by
  have hword := isWordOf_of_packByte (Laws.encode_of_decodeMisc h) ((decodeWord_packByte_misc x nn).trans h)
  rwa [Nat.add_right_comm] at hword

theorem isWordOf_pointChar (x : Reg) : IsWordOf (0xF029 + x.val * 256) (.pointChar x) :=
  isWordOf_of_decodeMisc (nn := 0x29#8) rfl

/-! ## What the instructions do -/

theorem onlyChanges_setI (s : State) (a : Word) : OnlyChanges [.index] s (s.setI a) := by
  apply OnlyChanges.of_fields
  case index => intro h; simp at h
  all_goals simp

theorem exec_setIndex (nnn : Word) (s : State) : exec (.setIndex nnn) s = .next (s.setI nnn) := rfl

theorem exec_pointChar (x : Reg) (s : State) : exec (.pointChar x) s = .next (s.setI (charAddress (s.reg x))) := rfl

/-- Settles O34: each of the two is a write to I alone, of the address itself or of the character's address. -/
theorem setIndexAndPointChar : Obligations.SetIndexAndPointChar :=
  ⟨fun _ h => isWordOf_setIndex h, isWordOf_pointChar,
    fun nnn s => ⟨_, exec_setIndex nnn s, s.setI_i nnn, onlyChanges_setI s nnn⟩,
    fun x s => ⟨_, exec_pointChar x s, charAddress_toNat (s.reg x), onlyChanges_setI s _⟩⟩

end Sys2Proof.Machine
end

section
/-! CLEAR (44_display.md R291): its word, and the one write to the framebuffer that it is. -/
namespace Sys2Proof.Machine

theorem isWordOf_clear : IsWordOf 0x00E0 .clear := ⟨by decide, by decide⟩

theorem Framebuffer.getElem_fill (white : Bool) (b : Fin 256) :
    (Framebuffer.fill white)[b] = if white then 0xFF else 0x00 := by
  simp only [Framebuffer.fill, Fin.getElem_fin, Vector.getElem_replicate]

theorem onlyChanges_setFb (s : State) (fb : Framebuffer) : OnlyChanges [.framebuffer] s (s.setFb fb) := by
  apply OnlyChanges.of_fields
  case framebuffer => intro h; simp at h
  all_goals simp

theorem exec_clear (s : State) : exec .clear s = .next (s.setFb (Framebuffer.fill false)) := rfl

/-- Settles O43: CLEAR is a write to the framebuffer alone, of the black fill. -/
theorem clearBlackensEveryPixel : Obligations.ClearBlackensEveryPixel :=
  ⟨isWordOf_clear, fun s =>
    ⟨_, exec_clear s, Framebuffer.getElem_fill false, Framebuffer.readPixel_fill false,
      onlyChanges_setFb s _⟩⟩

end Sys2Proof.Machine
end

section
/-! WAIT_KEY (45_keys_timers.md R324): its word, which key it finds, and the one write of each of its branches. -/
namespace Sys2Proof.Machine

theorem isWordOf_waitKey (x : Reg) : IsWordOf (0xF00A + x.val * 256) (.waitKey x) :=
  isWordOf_of_decodeMisc (nn := 0x0A#8) rfl

/-- The least key that is down is the one found: a key found is down with no lower one down, so neither of the two can
lie below the other. -/
theorem firstKey_eq_some_of_least {keys : BitVec 16} {k : Reg} (hdown : keys.getLsbD k.val = true)
    (hlower : ∀ j : Reg, j < k → keys.getLsbD j.val = false) : firstKey keys = some k := by
  cases hfound : firstKey keys with
  | none =>
    have hup : keys.getLsbD k.val = false := firstKey_eq_none.mp hfound k
    exact absurd hdown (ne_true_of_eq_false hup)
  | some j =>
    obtain ⟨hjdown, hjlower⟩ := firstKey_eq_some hfound
    have hkj : ¬ k < j := fun h => ne_true_of_eq_false (hjlower k h) hdown
    have hjk : ¬ j < k := fun h => ne_true_of_eq_false (hlower j h) hjdown
    rw [le_antisymm (not_lt.mp hkj) (not_lt.mp hjk)]

theorem exec_waitKey_of_firstKey {s : State} {k : Reg} (x : Reg) (h : firstKey s.keys = some k) :
    exec (.waitKey x) s = .next (s.setReg x (BitVec.ofNat 8 k.val)) := by
  simp only [exec, execWaitKey, h]

theorem exec_waitKey_of_no_key {s : State} (x : Reg) (h : firstKey s.keys = none) :
    exec (.waitKey x) s = .next (s.setPc (s.pc - 2)) := by
  simp only [exec, execWaitKey, h]

/-- A register number fits in a byte. -/
theorem ofNat_reg_toNat (k : Reg) : (BitVec.ofNat 8 k.val).toNat = k.val := by
  rw [BitVec.toNat_ofNat]
  omega

theorem pc_sub_two_toNat (pc : Word) : (pc - 2).toNat = (pc.toNat + 65536 - 2) % 65536 := by
  have htwo : (2 : Word).toNat = 2 := rfl
  rw [BitVec.toNat_sub, htwo]
  omega

/-- Settles O49: with a key down a write to Vx alone, of the key found; with none down a write to PC alone. -/
theorem waitKeyTakesLowestKey : Obligations.WaitKeyTakesLowestKey := by
  refine ⟨isWordOf_waitKey, fun x k s hdown hlower => ?down, fun x s hup => ?up⟩
  case down =>
    have hfound : firstKey s.keys = some k := firstKey_eq_some_of_least hdown hlower
    refine ⟨_, exec_waitKey_of_firstKey x hfound, ?_, onlyRegs_setReg s x _, onlyChanges_setReg s x _⟩
    rw [State.reg_setReg_same, ofNat_reg_toNat]
  case up =>
    exact ⟨_, exec_waitKey_of_no_key x (firstKey_eq_none.mpr hup), pc_sub_two_toNat s.pc, onlyChanges_setPc s _⟩

end Sys2Proof.Machine
end

section
/-! The timer instructions (45_keys_timers.md R323, R325, R326): their words, and the one write that each is. -/
namespace Sys2Proof.Machine

/-! ## Words -/

theorem isWordOf_readDelay (x : Reg) : IsWordOf (0xF007 + x.val * 256) (.readDelay x) :=
  isWordOf_of_decodeMisc (nn := 0x07#8) rfl

theorem isWordOf_setDelay (x : Reg) : IsWordOf (0xF015 + x.val * 256) (.setDelay x) :=
  isWordOf_of_decodeMisc (nn := 0x15#8) rfl

theorem isWordOf_setSound (x : Reg) : IsWordOf (0xF018 + x.val * 256) (.setSound x) :=
  isWordOf_of_decodeMisc (nn := 0x18#8) rfl

/-! ## The frame of a write to a timer -/

theorem onlyChanges_setDt (s : State) (T : Timer) : OnlyChanges [.delayTimer] s (s.setDt T) := by
  apply OnlyChanges.of_fields
  case delayTimer => intro h; simp at h
  all_goals simp

theorem onlyChanges_setSt (s : State) (T : Timer) : OnlyChanges [.soundTimer] s (s.setSt T) := by
  apply OnlyChanges.of_fields
  case soundTimer => intro h; simp at h
  all_goals simp

/-! ## What the instructions do -/

theorem exec_readDelay (x : Reg) (s : State) :
    exec (.readDelay x) s = .next (s.setReg x (s.dt.read s.input.now)) := rfl

theorem exec_setDelay (x : Reg) (s : State) :
    exec (.setDelay x) s = .next (s.setDt (Timer.load (s.reg x) s.input.now)) := rfl

theorem exec_setSound (x : Reg) (s : State) :
    exec (.setSound x) s = .next (s.setSt (Timer.load (s.reg x) s.input.now)) := rfl

/-- Settles O51: READ_DELAY is a write to Vx alone, SET_DELAY and SET_SOUND are each a write to their timer alone. -/
theorem timerInstructions : Obligations.TimerInstructions :=
  ⟨fun x => ⟨isWordOf_readDelay x, isWordOf_setDelay x, isWordOf_setSound x⟩,
    fun x s => ⟨_, exec_readDelay x s, s.reg_setReg_same x _, onlyRegs_setReg s x _, onlyChanges_setReg s x _⟩,
    fun x s => ⟨_, exec_setDelay x s, Timer.load_ts _ _, Timer.load_val _ _, onlyChanges_setDt s _⟩,
    fun x s => ⟨_, exec_setSound x s, Timer.load_ts _ _, Timer.load_val _ _, onlyChanges_setSt s _⟩⟩

end Sys2Proof.Machine
end

section
/-! What the timers read (60_exceptions.md R370), and who sets SND (R375): REFRESH_BEEPER by what the sound timer reads,
and neither another host operation nor a cycle. -/
namespace Sys2Proof.Machine

/-- Settles O50: by the law of the inactive timer and that of the active one, whose ticks are the formula's. -/
theorem timerReadFormula : Obligations.TimerReadFormula := by
  intro T now
  split
  · next hinactive => rw [Timer.read_inactive hinactive]; rfl
  · next hactive => exact Timer.read_active hactive now

/-! ## SND and KEY, which the host alone sets -/

/-- The fields that host operations set and instructions only read (R385). -/
def State.SameSoundAndKeys (s t : State) : Prop := t.snd = s.snd ∧ t.keys = s.keys

theorem State.sameSoundAndKeys_guarded {s done : State} (check : Nat → Option FaultCode) (as : List Nat) (w : Word)
    (hdone : s.SameSoundAndKeys done) : s.SameSoundAndKeys (s.guarded check as w done) := by
  obtain ⟨-, hanswer⟩ | ⟨_, _, -, -, -, hanswer⟩ := s.guarded_cases check as w done
  · rwa [hanswer]
  · rw [hanswer]; exact ⟨rfl, rfl⟩

theorem State.sameSoundAndKeys_skipOnKey (s : State) (x : Reg) (down : Bool) (w : Word) :
    s.SameSoundAndKeys (s.skipOnKey x down w) := by
  obtain ⟨-, hanswer⟩ | ⟨-, hanswer⟩ := s.skipOnKey_cases x down w <;> rw [hanswer] <;> exact ⟨rfl, rfl⟩

/-- No instruction sets SND or a key: a fault writes the halt record alone, and every other outcome is made of writes
to other fields. -/
theorem exec_sameSoundAndKeys {i : Instr} {s t : State} (h : exec i s = .next t) : s.SameSoundAndKeys t := by
  cases i with
  | draw | bcd | save | load => cases h; exact s.sameSoundAndKeys_guarded _ _ _ ⟨rfl, rfl⟩
  | skipPressed | skipNotPressed => cases h; exact s.sameSoundAndKeys_skipOnKey _ _ _
  | ret | call | waitKey => cases h; split <;> exact ⟨rfl, rfl⟩
  | addIndex => cases h; exact ⟨State.setIndexFlag_snd .., State.setIndexFlag_keys ..⟩
  | _ => cases h; exact ⟨rfl, rfl⟩

theorem cycle_sameSoundAndKeys {input : CycleInput} {s t : State} (h : cycle input s = .next t) :
    s.SameSoundAndKeys t := by
  obtain ⟨_, -, hcycle⟩ | ⟨-, -, hcycle⟩ | ⟨-, -, -, hcycle⟩ | ⟨i, -, -, -, hcycle⟩ := cycle_cases input s
  all_goals rw [hcycle] at h
  · cases h
  · cases h; exact ⟨rfl, rfl⟩
  · cases h; exact ⟨rfl, rfl⟩
  · obtain ⟨hsnd, hkeys⟩ := exec_sameSoundAndKeys h
    exact ⟨hsnd, hkeys⟩

/-! ## REFRESH_BEEPER -/

theorem onlyChanges_setSnd (s : State) (b : Bool) : OnlyChanges [.sound] s (s.setSnd b) := by
  apply OnlyChanges.of_fields
  case sound => intro h; simp at h
  all_goals simp

theorem hostOp_refreshBeeper (s : State) (now : Time) :
    s.hostOp (.refreshBeeper now) = s.setSnd (beeperOn s.st now) := rfl

theorem beeperOn_iff (T : Timer) (now : Time) : beeperOn T now = true ↔ 0 < (T.read now).toNat := decide_eq_true_iff

/-- Settles O54: REFRESH_BEEPER is a write to SND alone, SET_KEYS and READ_PIXEL write SND back as it was, and a cycle
does nothing but fault or execute one instruction. -/
theorem refreshBeeperMirrorsSoundTimer : Obligations.RefreshBeeperMirrorsSoundTimer := by
  refine ⟨fun s now => ?refresh, fun s k px py => ⟨s.hostOp_snd (.setKeys k), s.hostOp_snd (.readPixel px py)⟩,
    fun s t input h => (cycle_sameSoundAndKeys h).1⟩
  case refresh =>
    rw [hostOp_refreshBeeper]
    exact ⟨beeperOn_iff s.st now, onlyChanges_setSnd s _⟩

end Sys2Proof.Machine
end

section
/-! Decoding and encoding are inverse to each other (30_encoding.md, sections 2 to 4): decoding the word or the bytes of a
well-formed instruction gives it back, and the decoder makes well-formed instructions only. -/
namespace Sys2Proof.Machine

theorem decodeWord_packByte_key (x : Reg) (nn : Byte) :
    decodeWord (packByte 0xE#4 (regField x) nn) = decodeKey x nn := by
  simp [decodeWord]

theorem ofNat_toNat_of_countFits {n : Nat} (h : countFits n = true) : (BitVec.ofNat 4 n).toNat = n := by
  rw [BitVec.toNat_ofNat]
  exact Nat.mod_eq_of_lt (Nat.lt_succ_of_le (of_decide_eq_true h))

/-- By the format of the instruction: the dispatch finds its fixed nibbles, and its operands come back from their
fields. -/
theorem decodeWord_encode {i : Instr} (h : i.wellFormed = true) : decodeWord (encode i) = some i := by
  cases i with
  | clear | ret => rfl
  -- Format A.
  | jump nnn | call nnn | setIndex nnn | jumpOffset nnn => simp [encode, decodeWord, address_roundtrip h]
  -- Format XNN.
  | skipEqImm x nn | skipNeImm x nn | setImm x nn | addImm x nn | rand x nn => simp [encode, decodeWord]
  -- Formats XY and XYN.
  | skipEqReg x y | skipNeReg x y => simp [encode, decodeWord]
  | copy x y | orReg x y | andReg x y | xorReg x y | addReg x y | sub x y | shiftRight x y | subn x y
  | shiftLeft x y => exact decodeWord_pack_alu x y _
  | draw x y n => simp [encode, decodeWord, ofNat_toNat_of_countFits h]
  -- Format X.
  | skipPressed x | skipNotPressed x => exact decodeWord_packByte_key x _
  | readDelay x | waitKey x | setDelay x | setSound x | addIndex x | pointChar x | bcd x | save x | load x =>
    exact decodeWord_packByte_misc x _

theorem decodeBytes_bytesOfWord {w : Word} {i : Instr} (h : decodeWord w = some i) (rest : List Byte) :
    decodeBytes (bytesOfWord w ++ rest) = .ok (i, rest) := by
  simp only [bytesOfWord, List.cons_append, List.nil_append, decodeBytes, wordOfBytes_bytesOfWord, h]

/-- Settles O1: the bytes decode as their word does, and the word decodes back field by field. -/
theorem decodeEncodeRoundTrip : Obligations.DecodeEncodeRoundTrip :=
  fun _ rest h => ⟨decodeWord_encode h, decodeBytes_bytesOfWord (decodeWord_encode h) rest⟩

/-! ## What the decoder makes is well formed -/

theorem addressFits_setWidth (a : BitVec 12) : addressFits (a.setWidth 16) = true := by
  have ha := a.isLt
  simp only [addressFits, decide_eq_true_eq, BitVec.toNat_setWidth]
  omega

theorem countFits_toNat (n : BitVec 4) : countFits n.toNat = true := by
  have hn := n.isLt
  exact decide_eq_true (by omega)

theorem wellFormed_of_decodeAlu {x y : Reg} {n : BitVec 4} {i : Instr} (h : decodeAlu x y n = some i) :
    i.wellFormed = true := by
  unfold decodeAlu at h
  split at h <;> cases h <;> rfl

theorem wellFormed_of_decodeKey {x : Reg} {nn : Byte} {i : Instr} (h : decodeKey x nn = some i) :
    i.wellFormed = true := by
  unfold decodeKey at h
  split at h <;> cases h <;> rfl

theorem wellFormed_of_decodeMisc {x : Reg} {nn : Byte} {i : Instr} (h : decodeMisc x nn = some i) :
    i.wellFormed = true := by
  unfold decodeMisc at h
  split at h <;> cases h <;> rfl

/-- An address comes from 12 bits and a row count from 4; the other operands fit by their types. -/
theorem wellFormed_of_decodeWord {w : Word} {i : Instr} (h : decodeWord w = some i) : i.wellFormed = true := by
  unfold decodeWord at h
  split at h
  -- Case h_k is the top nibble k - 1, h_17 the wildcard.
  case h_1 =>
    split at h
    · cases h; rfl
    · split at h <;> cases h; rfl
  case h_2 | h_3 | h_11 | h_12 => cases h; exact addressFits_setWidth _
  case h_4 | h_5 | h_7 | h_8 | h_13 => cases h; rfl
  case h_6 | h_10 => split at h <;> cases h; rfl
  case h_9 => exact wellFormed_of_decodeAlu h
  case h_14 => cases h; exact countFits_toNat _
  case h_15 => exact wellFormed_of_decodeKey h
  case h_16 => exact wellFormed_of_decodeMisc h
  case h_17 => cases h

/-- Settles O2: decoding loses nothing of the word, and what it makes is well formed. -/
theorem encodeOfDecodedWord : Obligations.EncodeOfDecodedWord :=
  fun _ _ h => ⟨Laws.encode_of_decodeWord h, wellFormed_of_decodeWord h⟩

/-- Settles O5: nine closed words, each decoded by evaluation. -/
theorem specWordsDecode : Obligations.SpecWordsDecode := by
  unfold Obligations.SpecWordsDecode
  decide

end Sys2Proof.Machine
end

section
/-! The number of valid words (30_encoding.md R121). A word is its top nibble and its other twelve bits, the tail; under
each top nibble the dispatch accepts every tail, or decides on the low nibble or the low byte of the tail alone. -/
namespace Sys2Proof.Laws

/-! ## Counting over blocks -/

theorem countP_range_add (p : Nat → Bool) (a b : Nat) :
    (List.range (a + b)).countP p = (List.range a).countP p + (List.range b).countP (fun r => p (a + r)) := by
  rw [List.range_add, List.countP_append, List.countP_map]
  rfl

theorem countP_range_mul (p : Nat → Bool) (a b : Nat) :
    (List.range (a * b)).countP p =
      ((List.range a).map fun q => (List.range b).countP fun r => p (q * b + r)).sum := by
  induction a with
  | zero => simp
  | succ a ih => rw [Nat.succ_mul, countP_range_add, ih, List.range_succ, List.map_append, List.sum_append]; simp

/-- When each of `a` blocks of size `b` holds the same pattern, one block counts for all. -/
theorem countP_range_mul_of_periodic {p f : Nat → Bool} {a b : Nat} (h : ∀ t < a * b, p t = f (t % b)) :
    (List.range (a * b)).countP p = a * (List.range b).countP f := by
  have hblock : ∀ q ∈ List.range a, ((List.range b).countP fun r => p (q * b + r)) = (List.range b).countP f := by
    intro q hq
    apply List.countP_congr
    intro r hr
    rw [List.mem_range] at hq hr
    have hlt : q * b + r < a * b :=
      calc q * b + r < q * b + b := Nat.add_lt_add_left hr _
        _ = (q + 1) * b := (Nat.succ_mul q b).symm
        _ ≤ a * b := Nat.mul_le_mul_right b hq
    rw [h _ hlt, Nat.mul_add_mod_self_right, Nat.mod_eq_of_lt hr]
  rw [countP_range_mul, List.map_congr_left hblock]
  simp

theorem countP_isNone {f : Nat → Option Instr} {l : List Nat} {m k : Nat} (hlength : l.length = m + k)
    (hsome : l.countP (fun a => (f a).isSome) = m) : l.countP (fun a => (f a).isNone) = k := by
  have hnone : (fun a => (f a).isNone) = fun a => decide ¬ (f a).isSome = true := by
    funext a
    cases f a <;> rfl
  rw [List.length_eq_countP_add_countP fun a => (f a).isSome, hsome] at hlength
  rw [hnone, Nat.add_left_cancel hlength]

/-! ## The valid tails under each top nibble -/

/-- The word of a top nibble and a tail. -/
def wordOfTail (op : Fin 16) (t : Nat) : Word := BitVec.ofNat 16 (op.val * 4096 + t)

theorem wordOfTail_toNat (op : Fin 16) {t : Nat} (ht : t < 4096) : (wordOfTail op t).toNat = op.val * 4096 + t := by
  simp only [wordOfTail, BitVec.toNat_ofNat]
  omega

theorem fieldOp_wordOfTail (op : Fin 16) {t : Nat} (ht : t < 4096) : fieldOp (wordOfTail op t) = BitVec.ofNat 4 op.val := by
  apply BitVec.eq_of_toNat_eq
  rw [fieldOp_toNat, wordOfTail_toNat op ht, BitVec.toNat_ofNat]
  omega

theorem fieldN_wordOfTail (op : Fin 16) {t : Nat} (ht : t < 4096) :
    fieldN (wordOfTail op t) = BitVec.ofNat 4 (t % 16) := by
  apply BitVec.eq_of_toNat_eq
  rw [fieldN_toNat, wordOfTail_toNat op ht, BitVec.toNat_ofNat]
  omega

theorem fieldNn_wordOfTail (op : Fin 16) {t : Nat} (ht : t < 4096) :
    fieldNn (wordOfTail op t) = BitVec.ofNat 8 (t % 256) := by
  apply BitVec.eq_of_toNat_eq
  rw [fieldNn_toNat, wordOfTail_toNat op ht, BitVec.toNat_ofNat]
  omega

theorem fieldNnn_wordOfTail (op : Fin 16) {t : Nat} (ht : t < 4096) :
    fieldNnn (wordOfTail op t) = BitVec.ofNat 12 t := by
  apply BitVec.eq_of_toNat_eq
  rw [fieldNnn_toNat, wordOfTail_toNat op ht, BitVec.toNat_ofNat]
  omega

theorem isSome_decodeAlu (x y : Reg) (n : BitVec 4) : (decodeAlu x y n).isSome = (decodeAlu 0 0 n).isSome := by
  unfold decodeAlu
  split <;> rfl

theorem isSome_decodeKey (x : Reg) (nn : Byte) : (decodeKey x nn).isSome = (decodeKey 0 nn).isSome := by
  unfold decodeKey
  split <;> rfl

theorem isSome_decodeMisc (x : Reg) (nn : Byte) : (decodeMisc x nn).isSome = (decodeMisc 0 nn).isSome := by
  unfold decodeMisc
  split <;> rfl

theorem isSome_if_some (n m : BitVec 4) (i : Instr) : (if n = m then some i else none).isSome = (n == m) := by
  by_cases h : n = m <;> simp [h]

/-- How many tails are valid under a top nibble. -/
def validTails : Fin 16 → Nat
  | 0 => 2
  | 5 => 256
  | 8 => 2304
  | 9 => 256
  | 14 => 32
  | 15 => 144
  | _ => 4096

/-- Under top nibble 0 the tails 0x0E0 and 0x0EE alone are valid. -/
theorem isSome_decodeWord_wordOfTail_zero {t : Nat} (ht : t < 4096) :
    (decodeWord (wordOfTail 0 t)).isSome = (t == 0x0E0 || t == 0x0EE) := by
  have htail : ∀ c < 4096, BitVec.ofNat 12 t = BitVec.ofNat 12 c ↔ t = c := fun c hc => by
    rw [← BitVec.toNat_inj, BitVec.toNat_ofNat, BitVec.toNat_ofNat, Nat.mod_eq_of_lt ht, Nat.mod_eq_of_lt hc]
  unfold decodeWord
  rw [fieldOp_wordOfTail 0 ht, fieldNnn_wordOfTail 0 ht]
  simp only [htail 0x0E0 (by decide), htail 0x0EE (by decide)]
  by_cases hclear : t = 0x0E0
  · simp [hclear]
  · by_cases hret : t = 0x0EE <;> simp [hclear, hret]

theorem countP_valid_tails_zero : (List.range 4096).countP (fun t => (decodeWord (wordOfTail 0 t)).isSome) = 2 := by
  have hvalid : (List.range 4096).countP (fun t => (decodeWord (wordOfTail 0 t)).isSome) =
      (List.range (240 + 3856)).countP fun t => t == 0x0E0 || t == 0x0EE :=
    List.countP_congr fun t ht => by rw [isSome_decodeWord_wordOfTail_zero (List.mem_range.mp ht)]
  have hlow : (List.range (15 * 16)).countP (fun t => t == 0x0E0 || t == 0x0EE) = 2 := by
    rw [countP_range_mul]
    decide
  have hhigh : (List.range 3856).countP (fun r => 240 + r == 0x0E0 || 240 + r == 0x0EE) = 0 :=
    List.countP_eq_zero.mpr fun r _ => by simp only [Bool.or_eq_true, beq_iff_eq]; omega
  rw [hvalid, countP_range_add, hlow, hhigh]

theorem countP_decodeKey : (List.range 256).countP (fun b => (decodeKey 0 (BitVec.ofNat 8 b)).isSome) = 2 := by
  rw [show 256 = 16 * 16 from rfl, countP_range_mul]
  decide

theorem countP_decodeMisc : (List.range 256).countP (fun b => (decodeMisc 0 (BitVec.ofNat 8 b)).isSome) = 9 := by
  rw [show 256 = 16 * 16 from rfl, countP_range_mul]
  decide

/-- Each top nibble but 0 accepts all tails, or those with a valid low nibble, or those with a valid low byte. -/
theorem countP_valid_tails (op : Fin 16) :
    (List.range 4096).countP (fun t => (decodeWord (wordOfTail op t)).isSome) = validTails op := by
  match op with
  | 0 => exact countP_valid_tails_zero
  | 1 | 2 | 3 | 4 | 6 | 7 | 10 | 11 | 12 | 13 =>
    refine (List.countP_eq_length.mpr fun t ht => ?_).trans List.length_range
    unfold decodeWord
    rw [fieldOp_wordOfTail _ (List.mem_range.mp ht)]
    rfl
  | 5 | 9 =>
    refine (countP_range_mul_of_periodic (a := 256) (b := 16) (f := fun n => BitVec.ofNat 4 n == 0#4) ?_).trans (by decide)
    intro t ht
    unfold decodeWord
    rw [fieldOp_wordOfTail _ ht, fieldN_wordOfTail _ ht]
    exact isSome_if_some ..
  | 8 =>
    refine (countP_range_mul_of_periodic (a := 256) (b := 16)
      (f := fun n => (decodeAlu 0 0 (BitVec.ofNat 4 n)).isSome) ?_).trans (by decide)
    intro t ht
    unfold decodeWord
    rw [fieldOp_wordOfTail _ ht, fieldN_wordOfTail _ ht]
    exact isSome_decodeAlu ..
  | 14 =>
    refine (countP_range_mul_of_periodic (a := 16) (b := 256) ?_).trans (congrArg (16 * ·) countP_decodeKey)
    intro t ht
    unfold decodeWord
    rw [fieldOp_wordOfTail _ ht, fieldNn_wordOfTail _ ht]
    exact isSome_decodeKey ..
  | 15 =>
    refine (countP_range_mul_of_periodic (a := 16) (b := 256) ?_).trans (congrArg (16 * ·) countP_decodeMisc)
    intro t ht
    unfold decodeWord
    rw [fieldOp_wordOfTail _ ht, fieldNn_wordOfTail _ ht]
    exact isSome_decodeMisc ..
  | ⟨_ + 16, hlt⟩ => omega

theorem countP_valid_words : (List.range 65536).countP (fun w => (decodeWord (BitVec.ofNat 16 w)).isSome) = 43954 := by
  have htails : ∀ q ∈ List.range 16,
      ((List.range 4096).countP fun t => (decodeWord (BitVec.ofNat 16 (q * 4096 + t))).isSome) =
        validTails (Fin.ofNat 16 q) := fun q hq => by
    have hop : (Fin.ofNat 16 q).val = q := Nat.mod_eq_of_lt (List.mem_range.mp hq)
    rw [← countP_valid_tails]
    simp only [wordOfTail, hop]
  rw [show 65536 = 16 * 4096 from rfl, countP_range_mul, List.map_congr_left htails]
  decide

/-- Settles O4: the valid tails summed over the top nibbles; the other words are the rest of the 65536. -/
theorem validWordCount : Obligations.ValidWordCount :=
  ⟨countP_valid_words, countP_isNone (f := fun w => decodeWord (BitVec.ofNat 16 w)) List.length_range countP_valid_words⟩

end Sys2Proof.Laws
end

section
/-! What each instruction does, and the frames of the state's updates. An outcome is a chain of writes, so its frame is put
together from those of the writes; a fault entry writes the halt record alone. -/
namespace Sys2Proof.Machine

/-! ## Frames -/

/-- What fault entries keep and an operation keeps, the guarded operation keeps. -/
theorem State.guarded_eq {α : Type} (f : State → α) {s done : State} (check : Nat → Option FaultCode) (as : List Nat)
    (w : Word) (hraise : ∀ c a, f (s.raise c w a) = f s) (hdone : (∀ a ∈ as, check a = none) → f done = f s) :
    f (s.guarded check as w done) = f s := by
  obtain ⟨hpass, hanswer⟩ | ⟨c, a, -, -, -, hanswer⟩ := s.guarded_cases check as w done
  · rw [hanswer, hdone hpass]
  · rw [hanswer, hraise]

theorem Part.Same.trans {p : Part} {s t u : State} (hst : p.Same s t) (htu : p.Same t u) : p.Same s u := by
  cases p with
  | memory | registers => exact fun a => (htu a).trans (hst a)
  | framebuffer => exact fun px py => (htu px py).trans (hst px py)
  | stack => exact ⟨htu.1.trans hst.1, htu.2.trans hst.2⟩
  | hostInputs => exact ⟨htu.1.trans hst.1, htu.2.1.trans hst.2.1, htu.2.2.trans hst.2.2⟩
  | pc | index | sound | keys | delayTimer | soundTimer | halt => exact Eq.trans htu hst

theorem OnlyChanges.trans {ps : List Part} {s t u : State} (hst : OnlyChanges ps s t) (htu : OnlyChanges ps t u) :
    OnlyChanges ps s u := fun p hp => (hst p hp).trans (htu p hp)

theorem OnlyChanges.mono {ps qs : List Part} {s t : State} (h : OnlyChanges ps s t) (hsub : ps ⊆ qs) :
    OnlyChanges qs s t := fun p hp => h p fun hmem => hp (hsub hmem)

theorem OnlyChanges.refl (ps : List Part) (s : State) : OnlyChanges ps s s := by
  apply OnlyChanges.of_fields <;> simp

theorem onlyChanges_setRegs (s : State) (v : Vector Byte 16) : OnlyChanges [.registers] s (s.setRegs v) := by
  apply OnlyChanges.of_fields
  case registers => intro h; simp at h
  all_goals simp

theorem onlyChanges_setMem (s : State) (m : Memory) : OnlyChanges [.memory] s (s.setMem m) := by
  apply OnlyChanges.of_fields
  case memory => intro h; simp at h
  all_goals simp

theorem onlyChanges_setKeys (s : State) (k : BitVec 16) : OnlyChanges [.keys] s (s.setKeys k) := by
  apply OnlyChanges.of_fields
  case keys => intro h; simp at h
  all_goals simp

theorem onlyChanges_push (s : State) (w : Word) (h : s.sp.val < 16) : OnlyChanges [.stack] s (s.push w h) := by
  apply OnlyChanges.of_fields
  case stack => intro h; simp at h
  all_goals simp

theorem onlyChanges_drop (s : State) (h : 0 < s.sp.val) : OnlyChanges [.stack] s (s.drop h) := by
  apply OnlyChanges.of_fields
  case stack => intro h; simp at h
  all_goals simp

theorem onlyChanges_skipIf (s : State) (taken : Bool) : OnlyChanges [.pc] s (s.skipIf taken) := onlyChanges_setPc s _

theorem onlyChanges_raise (s : State) (c : FaultCode) (w : Word) (a : Option Nat) :
    OnlyChanges [.halt] s (s.raise c w a) := by
  apply OnlyChanges.of_fields
  case halt => intro h; simp at h
  all_goals simp

theorem onlyChanges_setResultFlag (s : State) (x : Reg) (r : Byte) (f : Bool) :
    OnlyChanges [.registers] s (s.setResultFlag x r f) := onlyChanges_setRegs s _

theorem onlyChanges_setIndexFlag (s : State) (o : AddIndexVf) (f : Bool) :
    OnlyChanges [.registers] s (s.setIndexFlag o f) := by
  cases o with
  | set => exact onlyChanges_setReg s VF _
  | never => exact OnlyChanges.refl _ s

/-- A guarded operation changes what the operation changes, or halts. -/
theorem onlyChanges_guarded {ps : List Part} {s done : State} (check : Nat → Option FaultCode) (as : List Nat) (w : Word)
    (hhalt : .halt ∈ ps) (hdone : OnlyChanges ps s done) : OnlyChanges ps s (s.guarded check as w done) := by
  obtain ⟨-, hanswer⟩ | ⟨c, a, -, -, -, hanswer⟩ := s.guarded_cases check as w done
  · rwa [hanswer]
  · rw [hanswer]
    exact (onlyChanges_raise s c w (some a)).mono (by simpa using hhalt)

theorem onlyChanges_skipOnKey (s : State) (x : Reg) (down : Bool) (w : Word) :
    OnlyChanges [.pc, .halt] s (s.skipOnKey x down w) := by
  obtain ⟨-, hanswer⟩ | ⟨-, hanswer⟩ := s.skipOnKey_cases x down w <;> rw [hanswer]
  · exact (onlyChanges_raise s _ _ _).mono (by simp)
  · exact (onlyChanges_skipIf s _).mono (by simp)

/-! ## Registers a write leaves alone -/

theorem onlyRegs_setResultFlag (s : State) (x : Reg) (r : Byte) (f : Bool) :
    OnlyRegs [x, VF] s (s.setResultFlag x r f) := by
  intro y hy
  simp only [List.mem_cons, List.not_mem_nil, or_false, not_or] at hy
  rw [State.reg_setResultFlag, if_neg hy.2, if_neg hy.1]

theorem onlyRegs_setIndexFlag (s : State) (o : AddIndexVf) (f : Bool) : OnlyRegs [VF] s (s.setIndexFlag o f) := by
  intro y hy
  rw [State.reg_setIndexFlag, if_neg fun h => List.ne_of_not_mem_cons hy h.2]

theorem OnlyRegs.guarded {xs : List Reg} {s done : State} (hdone : OnlyRegs xs s done) (check : Nat → Option FaultCode)
    (as : List Nat) (w : Word) : OnlyRegs xs s (s.guarded check as w done) :=
  fun y hy => State.guarded_eq (State.reg · y) check as w (fun _ _ => rfl) fun _ => hdone y hy

/-! ## What the instructions do -/

theorem exec_skipEqImm (x : Reg) (nn : Byte) (s : State) :
    exec (.skipEqImm x nn) s = .next (s.skipIf (s.reg x == nn)) := rfl

theorem exec_skipNeImm (x : Reg) (nn : Byte) (s : State) :
    exec (.skipNeImm x nn) s = .next (s.skipIf (s.reg x != nn)) := rfl

theorem exec_skipEqReg (x y : Reg) (s : State) :
    exec (.skipEqReg x y) s = .next (s.skipIf (s.reg x == s.reg y)) := rfl

theorem exec_skipNeReg (x y : Reg) (s : State) :
    exec (.skipNeReg x y) s = .next (s.skipIf (s.reg x != s.reg y)) := rfl

theorem exec_call_push (nnn : Word) {s : State} (h : s.sp.val < 16) :
    exec (.call nnn) s = .next ((s.push s.pc h).setPc nnn) := by
  simp only [exec, execCall, dif_pos h]

theorem exec_call_overflow (nnn : Word) {s : State} (h : ¬ s.sp.val < 16) :
    exec (.call nnn) s = .next (s.raise .stackOverflow (encode (.call nnn)) none) := by
  simp only [exec, execCall, dif_neg h]

theorem exec_ret_pop {s : State} (h : 0 < s.sp.val) : exec .ret s = .next ((s.drop h).setPc (s.top h)) := by
  simp only [exec, execRet, dif_pos h]

theorem exec_ret_underflow {s : State} (h : ¬ 0 < s.sp.val) :
    exec .ret s = .next (s.raise .stackUnderflow (encode .ret) none) := by
  simp only [exec, execRet, dif_neg h]

/-- Everything CALL can do: a push and a jump, or STACK_OVERFLOW. -/
theorem exec_call_cases {nnn : Word} {s t : State} (h : exec (.call nnn) s = .next t) :
    (∃ hroom : s.sp.val < 16, t = (s.push s.pc hroom).setPc nnn) ∨
    (¬ s.sp.val < 16 ∧ t = s.raise .stackOverflow (encode (.call nnn)) none) := by
  by_cases hroom : s.sp.val < 16
  · rw [exec_call_push nnn hroom] at h; cases h; exact .inl ⟨hroom, rfl⟩
  · rw [exec_call_overflow nnn hroom] at h; cases h; exact .inr ⟨hroom, rfl⟩

/-- Everything RETURN can do: a pop into PC, or STACK_UNDERFLOW. -/
theorem exec_ret_cases {s t : State} (h : exec .ret s = .next t) :
    (∃ hdepth : 0 < s.sp.val, t = (s.drop hdepth).setPc (s.top hdepth)) ∨
    (¬ 0 < s.sp.val ∧ t = s.raise .stackUnderflow (encode .ret) none) := by
  by_cases hdepth : 0 < s.sp.val
  · rw [exec_ret_pop hdepth] at h; cases h; exact .inl ⟨hdepth, rfl⟩
  · rw [exec_ret_underflow hdepth] at h; cases h; exact .inr ⟨hdepth, rfl⟩

/-- Everything WAIT_KEY can do: a write of the key found to Vx, or a step back onto itself. -/
theorem exec_waitKey_cases {x : Reg} {s t : State} (h : exec (.waitKey x) s = .next t) :
    (∃ k, firstKey s.keys = some k ∧ t = s.setReg x (BitVec.ofNat 8 k.val)) ∨
    (firstKey s.keys = none ∧ t = s.setPc (s.pc - 2)) := by
  cases hkey : firstKey s.keys with
  | some k => rw [exec_waitKey_of_firstKey x hkey] at h; cases h; exact .inl ⟨k, rfl, rfl⟩
  | none => rw [exec_waitKey_of_no_key x hkey] at h; cases h; exact .inr ⟨rfl, rfl⟩

theorem exec_addReg (x y : Reg) (s : State) :
    exec (.addReg x y) s = .next (s.setResultFlag x (s.reg x + s.reg y) (carryFlag (s.reg x) (s.reg y))) := rfl

theorem exec_sub (x y : Reg) (s : State) :
    exec (.sub x y) s = .next (s.setResultFlag x (s.reg x - s.reg y) (greaterFlag (s.reg x) (s.reg y))) := rfl

theorem exec_subn (x y : Reg) (s : State) :
    exec (.subn x y) s = .next (s.setResultFlag x (s.reg y - s.reg x) (greaterFlag (s.reg y) (s.reg x))) := rfl

/-- The value a shift of Vx and Vy works on (R210, R212). -/
def State.shiftOperand (s : State) (x y : Reg) : Byte := shiftValue Config.current.shiftSource (s.reg x) (s.reg y)

theorem exec_shiftRight (x y : Reg) (s : State) : exec (.shiftRight x y) s =
    .next (s.setResultFlag x (s.shiftOperand x y >>> 1) (lowBitFlag (s.shiftOperand x y))) := rfl

theorem exec_shiftLeft (x y : Reg) (s : State) : exec (.shiftLeft x y) s =
    .next (s.setResultFlag x (s.shiftOperand x y <<< 1) (highBitFlag (s.shiftOperand x y))) := rfl

theorem exec_rand (x : Reg) (nn : Byte) (s : State) : exec (.rand x nn) s = .next (s.setReg x (s.input.rnd &&& nn)) := rfl

theorem exec_addIndex (x : Reg) (s : State) : exec (.addIndex x) s =
    .next ((s.setI (masked12 (s.i.toNat + (s.reg x).toNat))).setIndexFlag Config.current.addIndexVf
      (indexOverflowFlag s.i (s.reg x))) := rfl

theorem exec_skipPressed (x : Reg) (s : State) :
    exec (.skipPressed x) s = .next (s.skipOnKey x true (encode (.skipPressed x))) := rfl

theorem exec_skipNotPressed (x : Reg) (s : State) :
    exec (.skipNotPressed x) s = .next (s.skipOnKey x false (encode (.skipNotPressed x))) := rfl

/-- What BCD does where its addresses pass (R254). -/
def State.afterBcd (s : State) (x : Reg) : State :=
  s.setMem (bcdMemory Config.current.bcdUnsettled s.input s.mem s.i (s.reg x))

/-- What SAVE does where its addresses pass (R255). -/
def State.afterSave (s : State) (x : Reg) : State :=
  (s.setMem (Memory.writeBytes s.mem s.i.toNat (savedBytes s.v x))).setI (savedIndex Config.current.saveIncrementI s.i x)

/-- What LOAD does where its addresses pass (R256). -/
def State.afterLoad (s : State) (x : Reg) : State := s.setRegs (loadedRegs s.mem s.i x s.v)

/-- What DRAW does where its addresses pass (R292). -/
def State.afterDraw (s : State) (x y : Reg) (n : Nat) : State :=
  (s.setFb (drawnCanvas x y n s).1).setReg VF (flagByte (drawnCanvas x y n s).2)

@[simp] theorem State.afterSave_mem (s : State) (x : Reg) :
    (s.afterSave x).mem = Memory.writeBytes s.mem s.i.toNat (savedBytes s.v x) := rfl

@[simp] theorem State.afterSave_i (s : State) (x : Reg) :
    (s.afterSave x).i = savedIndex Config.current.saveIncrementI s.i x := rfl

@[simp] theorem State.reg_afterLoad (s : State) (x y : Reg) :
    (s.afterLoad x).reg y = if y ≤ x then Memory.read s.mem (s.i.toNat + y.val) else s.reg y := loadedRegs_get ..

theorem exec_bcd (x : Reg) (s : State) :
    exec (.bcd x) s = .next (s.guarded writeCheck (indexSpan s.i 3) (encode (.bcd x)) (s.afterBcd x)) := rfl

theorem exec_save (x : Reg) (s : State) :
    exec (.save x) s = .next (s.guarded writeCheck (indexSpan s.i (x.val + 1)) (encode (.save x)) (s.afterSave x)) := rfl

theorem exec_load (x : Reg) (s : State) :
    exec (.load x) s = .next (s.guarded readCheck (indexSpan s.i (x.val + 1)) (encode (.load x)) (s.afterLoad x)) := rfl

theorem exec_draw (x y : Reg) (n : Nat) (s : State) :
    exec (.draw x y n) s = .next (s.guarded readCheck (indexSpan s.i n) (encode (.draw x y n)) (s.afterDraw x y n)) := rfl

end Sys2Proof.Machine
end

section
/-! The outcome of an instruction: it completes with the halt record as it was, or it is the entry of a fault of its own
(60_exceptions.md R352 to R354). -/
namespace Sys2Proof.Machine

/-- Settles O15: every arm of the dispatch is a next state. -/
theorem everyInstructionAnswersNext : Obligations.EveryInstructionAnswersNext := by
  intro i s
  cases i <;> exact ⟨_, rfl⟩

/-- `t` is the entry of a fault that instruction `i` can raise, from `s` (R352, R353). -/
def FaultEntry (i : Instr) (s t : State) : Prop :=
  ∃ c a, c ∈ raises i ∧ a.isSome = c.recordsDataAddress ∧ t = s.raise c (encode i) a

theorem eq_memRange_of_readCheck {a : Nat} {c : FaultCode} (h : readCheck a = some c) : c = .memRange := by
  unfold readCheck at h
  split at h <;> cases h
  rfl

theorem eq_memRange_or_fontWrite_of_writeCheck {a : Nat} {c : FaultCode} (h : writeCheck a = some c) :
    c = .memRange ∨ c = .fontWrite := by
  unfold writeCheck at h
  split at h
  · cases h; exact .inl rfl
  · split at h <;> cases h
    exact .inr rfl

theorem guarded_completes_or_faults {i : Instr} {s done : State} {check : Nat → Option FaultCode} (as : List Nat)
    (hcheck : ∀ a c, check a = some c → c ∈ raises i ∧ c.recordsDataAddress = true) (hdone : done.halt = s.halt) :
    (s.guarded check as (encode i) done).halt = s.halt ∨ FaultEntry i s (s.guarded check as (encode i) done) := by
  obtain ⟨-, hanswer⟩ | ⟨c, a, -, hfails, -, hanswer⟩ := s.guarded_cases check as (encode i) done
  · exact .inl ((congrArg State.halt hanswer).trans hdone)
  · obtain ⟨hraises, hrecords⟩ := hcheck a c hfails
    exact .inr ⟨c, some a, hraises, hrecords.symm, hanswer⟩

theorem writeGuarded_completes_or_faults {i : Instr} {s done : State} (as : List Nat)
    (hraises : raises i = [.memRange, .fontWrite]) (hdone : done.halt = s.halt) :
    (s.guarded writeCheck as (encode i) done).halt = s.halt ∨
      FaultEntry i s (s.guarded writeCheck as (encode i) done) := by
  refine guarded_completes_or_faults as (fun a c h => ?_) hdone
  rw [hraises]
  obtain rfl | rfl := eq_memRange_or_fontWrite_of_writeCheck h <;> simp [FaultCode.recordsDataAddress]

theorem readGuarded_completes_or_faults {i : Instr} {s done : State} (as : List Nat)
    (hraises : raises i = [.memRange]) (hdone : done.halt = s.halt) :
    (s.guarded readCheck as (encode i) done).halt = s.halt ∨
      FaultEntry i s (s.guarded readCheck as (encode i) done) := by
  refine guarded_completes_or_faults as (fun a c h => ?_) hdone
  rw [hraises, eq_memRange_of_readCheck h]
  simp [FaultCode.recordsDataAddress]

theorem skipOnKey_completes_or_faults {i : Instr} (s : State) (x : Reg) (down : Bool) (hraises : raises i = [.keyRange]) :
    (s.skipOnKey x down (encode i)).halt = s.halt ∨ FaultEntry i s (s.skipOnKey x down (encode i)) := by
  obtain ⟨-, hanswer⟩ | ⟨-, hanswer⟩ := s.skipOnKey_cases x down (encode i)
  · exact .inr ⟨.keyRange, none, by simp [hraises], rfl, hanswer⟩
  · exact .inl (hanswer ▸ s.skipIf_halt _)

theorem exec_completes_or_faults {i : Instr} {s t : State} (h : exec i s = .next t) :
    t.halt = s.halt ∨ FaultEntry i s t := by
  cases i with
  | bcd x | save x => cases h; exact writeGuarded_completes_or_faults _ rfl rfl
  | load x | draw x y n => cases h; exact readGuarded_completes_or_faults _ rfl rfl
  | skipPressed x | skipNotPressed x => cases h; exact skipOnKey_completes_or_faults s x _ rfl
  | ret =>
    obtain ⟨-, rfl⟩ | ⟨-, rfl⟩ := exec_ret_cases h
    · exact .inl rfl
    · exact .inr ⟨_, _, List.mem_singleton.mpr rfl, rfl, rfl⟩
  | call nnn =>
    obtain ⟨-, rfl⟩ | ⟨-, rfl⟩ := exec_call_cases h
    · exact .inl rfl
    · exact .inr ⟨_, _, List.mem_singleton.mpr rfl, rfl, rfl⟩
  | waitKey x => obtain ⟨_, -, rfl⟩ | ⟨-, rfl⟩ := exec_waitKey_cases h <;> exact .inl rfl
  | addIndex x => cases h; exact .inl (State.setIndexFlag_halt ..)
  | _ => cases h; exact .inl rfl

/-- From a running state, a halt record is that of a fault of the instruction. -/
theorem faultEntry_of_halt {i : Instr} {s t : State} {r : HaltRecord} (hrunning : s.Running) (h : exec i s = .next t)
    (hr : t.halt = some r) : FaultEntry i s t := by
  refine (exec_completes_or_faults h).resolve_left fun hsame => ?_
  rw [hsame, hrunning] at hr
  cases hr

/-- Settles O16: a fault entry writes the halt record alone, with the instruction's word and the PC before the fetch. -/
theorem faultsArePrecise : Obligations.FaultsArePrecise := by
  intro i s t r hrunning h hr
  obtain ⟨c, a, -, -, rfl⟩ := faultEntry_of_halt hrunning h hr
  cases hr
  exact ⟨rfl, rfl, rfl⟩

/-- Settles O17: the code and the address are those of a fault entry. -/
theorem faultsOfEachInstruction : Obligations.FaultsOfEachInstruction := by
  intro i s t r hrunning h hr
  obtain ⟨c, a, hraises, haddr, rfl⟩ := faultEntry_of_halt hrunning h hr
  cases hr
  exact ⟨hraises, haddr⟩

end Sys2Proof.Machine
end

section
/-! What instructions do not read: the draws of the cycle (40_cycle.md R146), but for those that name them, and the
framebuffer (10_state.md R47), but for CLEAR and DRAW. Such a part can be overwritten before the instruction or after. -/
namespace Sys2Proof.Machine

/-! ## Updates that commute with an instruction -/

/-- A guarded operation commutes with an update that each of its outcomes commutes with. -/
theorem State.guarded_map (f : State → State) (s done : State) (check : Nat → Option FaultCode) (as : List Nat)
    (w : Word) (hraise : ∀ c a, (f s).raise c w a = f (s.raise c w a)) :
    (f s).guarded check as w (f done) = f (s.guarded check as w done) := by
  unfold State.guarded
  split
  · exact hraise _ _
  · rfl

theorem State.skipOnKey_setInput (s : State) (c : CycleInput) (x : Reg) (down : Bool) (w : Word) :
    (s.setInput c).skipOnKey x down w = (s.skipOnKey x down w).setInput c :=
  (apply_ite (State.setInput · c) (15 < (s.reg x).toNat) (s.raise .keyRange w none) (s.skipIf _)).symm

theorem State.skipOnKey_setFb (s : State) (fb : Framebuffer) (x : Reg) (down : Bool) (w : Word) :
    (s.setFb fb).skipOnKey x down w = (s.skipOnKey x down w).setFb fb :=
  (apply_ite (State.setFb · fb) (15 < (s.reg x).toNat) (s.raise .keyRange w none) (s.skipIf _)).symm

theorem State.setIndexFlag_setInput (s : State) (c : CycleInput) (o : AddIndexVf) (f : Bool) :
    (s.setInput c).setIndexFlag o f = (s.setIndexFlag o f).setInput c := by cases o <;> rfl

theorem State.setIndexFlag_setFb (s : State) (fb : Framebuffer) (o : AddIndexVf) (f : Bool) :
    (s.setFb fb).setIndexFlag o f = (s.setIndexFlag o f).setFb fb := by cases o <;> rfl

/-! ## The draws -/

theorem State.skipOnKey_input (s : State) (x : Reg) (down : Bool) (w : Word) :
    (s.skipOnKey x down w).input = s.input := by
  obtain ⟨-, hanswer⟩ | ⟨-, hanswer⟩ := s.skipOnKey_cases x down w <;> rw [hanswer] <;> rfl

/-- No instruction changes the draws of its cycle. -/
theorem exec_input {i : Instr} {s t : State} (h : exec i s = .next t) : t.input = s.input := by
  cases i with
  | draw | bcd | save | load => cases h; exact State.guarded_eq State.input _ _ _ (fun _ _ => rfl) fun _ => rfl
  | skipPressed | skipNotPressed => cases h; exact s.skipOnKey_input _ _ _
  | ret | call | waitKey => cases h; split <;> rfl
  | addIndex => cases h; exact State.setIndexFlag_input ..
  | _ => cases h; rfl

/-- The random byte and the time aside, two draws are the same: those of the policies EITHER (R201, R254). -/
def SamePolicyDraws (c d : CycleInput) : Prop :=
  c.vfTakesFlag = d.vfTakesFlag ∧ c.bcdZeroTens = d.bcdZeroTens ∧ c.bcdZeroOnes = d.bcdZeroOnes

theorem State.setResultFlag_setInput {s : State} {c : CycleInput} (h : SamePolicyDraws c s.input) (x : Reg) (r : Byte)
    (f : Bool) : (s.setInput c).setResultFlag x r f = (s.setResultFlag x r f).setInput c := by
  obtain ⟨hvf, -, -⟩ := h
  simp only [State.setResultFlag, State.setInput_input, State.setInput_v, hvf]
  rfl

theorem State.afterBcd_setInput {s : State} {c : CycleInput} (h : SamePolicyDraws c s.input) (x : Reg) :
    (s.setInput c).afterBcd x = (s.afterBcd x).setInput c := by
  obtain ⟨-, htens, hones⟩ := h
  simp only [State.afterBcd, bcdMemory, State.setInput_input, htens, hones]
  rfl

/-- An instruction does the same under other draws, where RAND has the same random byte and the timer instructions the
same time. -/
theorem exec_setInput {i : Instr} {s t : State} {c : CycleInput} (hpolicy : SamePolicyDraws c s.input)
    (hrnd : ∀ x nn, i = .rand x nn → c.rnd = s.input.rnd)
    (hnow : ∀ x, i = .readDelay x ∨ i = .setDelay x ∨ i = .setSound x → c.now = s.input.now)
    (h : exec i s = .next t) : exec i (s.setInput c) = .next (t.setInput c) := by
  cases i with
  | rand x nn => cases h; rw [exec_rand, State.setInput_input, hrnd x nn rfl]; rfl
  | readDelay x => cases h; rw [exec_readDelay, State.setInput_input, hnow x (by simp)]; rfl
  | setDelay x => cases h; rw [exec_setDelay, State.setInput_input, hnow x (by simp)]; rfl
  | setSound x => cases h; rw [exec_setSound, State.setInput_input, hnow x (by simp)]; rfl
  | addReg | sub | shiftRight | subn | shiftLeft =>
    cases h
    exact congrArg Host.Outcome.next (State.setResultFlag_setInput hpolicy ..)
  | bcd x =>
    cases h
    rw [exec_bcd, State.afterBcd_setInput hpolicy]
    exact congrArg Host.Outcome.next (s.guarded_map (·.setInput c) (s.afterBcd x) _ _ _ fun _ _ => rfl)
  | save x =>
    cases h
    exact congrArg Host.Outcome.next (s.guarded_map (·.setInput c) (s.afterSave x) _ _ _ fun _ _ => rfl)
  | load x =>
    cases h
    exact congrArg Host.Outcome.next (s.guarded_map (·.setInput c) (s.afterLoad x) _ _ _ fun _ _ => rfl)
  | draw x y n =>
    cases h
    exact congrArg Host.Outcome.next (s.guarded_map (·.setInput c) (s.afterDraw x y n) _ _ _ fun _ _ => rfl)
  | skipPressed | skipNotPressed => cases h; exact congrArg Host.Outcome.next (s.skipOnKey_setInput c ..)
  | addIndex x =>
    cases h
    exact congrArg Host.Outcome.next ((s.setI (masked12 (s.i.toNat + (s.reg x).toNat))).setIndexFlag_setInput c _ _)
  | ret =>
    obtain ⟨hdepth, rfl⟩ | ⟨hempty, rfl⟩ := exec_ret_cases h
    · exact exec_ret_pop (s := s.setInput c) hdepth
    · exact exec_ret_underflow (s := s.setInput c) hempty
  | call nnn =>
    obtain ⟨hroom, rfl⟩ | ⟨hfull, rfl⟩ := exec_call_cases h
    · exact exec_call_push nnn (s := s.setInput c) hroom
    · exact exec_call_overflow nnn (s := s.setInput c) hfull
  | waitKey x =>
    obtain ⟨k, hkey, rfl⟩ | ⟨hkey, rfl⟩ := exec_waitKey_cases h
    · exact exec_waitKey_of_firstKey x (s := s.setInput c) hkey
    · exact exec_waitKey_of_no_key x (s := s.setInput c) hkey
  | _ => cases h; rfl

/-- Settles O18: each clause changes one draw, which only the named instructions read, and keeps the others. -/
theorem cycleInputsReadOnlyWhereNamed : Obligations.CycleInputsReadOnlyWhereNamed := by
  refine ⟨fun i s t b hi h => ?rnd, fun i s t now hi h => ?now⟩
  case rnd =>
    rw [exec_input h]
    exact exec_setInput ⟨rfl, rfl, rfl⟩ (fun x nn e => absurd e (hi x nn)) (fun _ _ => rfl) h
  case now =>
    rw [exec_input h]
    refine exec_setInput ⟨rfl, rfl, rfl⟩ (fun _ _ _ => rfl) (fun x e => ?_) h
    obtain ⟨hread, hdelay, hsound⟩ := hi x
    simp [hread, hdelay, hsound] at e

/-! ## The framebuffer -/

/-- Settles O19: a write to the framebuffer commutes with every other instruction, of which none reads it. -/
theorem framebufferReachedByClearAndDrawOnly : Obligations.FramebufferReachedByClearAndDrawOnly := by
  intro i s t fb hclear hdraw h
  change exec i (s.setFb fb) = .next (t.setFb fb)
  cases i with
  | clear => exact absurd rfl hclear
  | draw x y n => exact absurd rfl (hdraw x y n)
  | bcd x =>
    cases h
    exact congrArg Host.Outcome.next (s.guarded_map (·.setFb fb) (s.afterBcd x) _ _ _ fun _ _ => rfl)
  | save x =>
    cases h
    exact congrArg Host.Outcome.next (s.guarded_map (·.setFb fb) (s.afterSave x) _ _ _ fun _ _ => rfl)
  | load x =>
    cases h
    exact congrArg Host.Outcome.next (s.guarded_map (·.setFb fb) (s.afterLoad x) _ _ _ fun _ _ => rfl)
  | skipPressed | skipNotPressed => cases h; exact congrArg Host.Outcome.next (s.skipOnKey_setFb fb ..)
  | addIndex x =>
    cases h
    exact congrArg Host.Outcome.next ((s.setI (masked12 (s.i.toNat + (s.reg x).toNat))).setIndexFlag_setFb fb _ _)
  | ret =>
    obtain ⟨hdepth, rfl⟩ | ⟨hempty, rfl⟩ := exec_ret_cases h
    · exact exec_ret_pop (s := s.setFb fb) hdepth
    · exact exec_ret_underflow (s := s.setFb fb) hempty
  | call nnn =>
    obtain ⟨hroom, rfl⟩ | ⟨hfull, rfl⟩ := exec_call_cases h
    · exact exec_call_push nnn (s := s.setFb fb) hroom
    · exact exec_call_overflow nnn (s := s.setFb fb) hfull
  | waitKey x =>
    obtain ⟨k, hkey, rfl⟩ | ⟨hkey, rfl⟩ := exec_waitKey_cases h
    · exact exec_waitKey_of_firstKey x (s := s.setFb fb) hkey
    · exact exec_waitKey_of_no_key x (s := s.setFb fb) hkey
  | _ => cases h; rfl

end Sys2Proof.Machine
end

section
/-! Who changes VF (10_state.md R34, R41): the instructions that set it as a flag, and those that name it as a
destination. -/
namespace Sys2Proof.Machine

/-- Settles O20: the flag setters aside, an instruction writes no register, or its destination, or those of LOAD's range. -/
theorem vfChangesOnlyAsListed : Obligations.VfChangesOnlyAsListed := by
  intro i s t h hflag hdest
  cases i with
  | addReg | sub | shiftRight | subn | shiftLeft | draw => exact absurd trivial hflag
  | addIndex x => cases h; rw [State.reg_setIndexFlag, if_neg fun e => hflag e.1, State.reg_setI]
  | setImm | addImm | copy | orReg | andReg | xorReg | rand | readDelay =>
    cases h; exact s.reg_setReg_other _ (Ne.symm hdest)
  | waitKey x =>
    obtain ⟨k, -, rfl⟩ | ⟨-, rfl⟩ := exec_waitKey_cases h
    · exact s.reg_setReg_other _ (Ne.symm hdest)
    · rfl
  | load x =>
    cases h
    exact State.guarded_eq (State.reg · VF) _ _ _ (fun _ _ => rfl) fun _ => (s.reg_afterLoad x VF).trans (if_neg hdest)
  | bcd | save => cases h; exact State.guarded_eq (State.reg · VF) _ _ _ (fun _ _ => rfl) fun _ => rfl
  | skipPressed | skipNotPressed => cases h; exact onlyChanges_skipOnKey s _ _ _ .registers (by simp) VF
  | ret | call => cases h; split <;> rfl
  | _ => cases h; rfl

end Sys2Proof.Machine
end

section
/-! One step, by what stands at PC (40_cycle.md R141 to R148): a halted core, a fetch out of range, a word of no row, or an
instruction, which runs from the post-fetch state. -/
namespace Sys2Proof.Machine

theorem cycle_halted {s : State} {r : HaltRecord} (input : CycleInput) (h : s.halt = some r) :
    cycle input s = .fault (.halted r) := by
  simp only [cycle, h]

theorem step_halted {s : State} {r : HaltRecord} (h : s.halt = some r) : step s = .fault (.halted r) :=
  cycle_halted s.nextTurn.input (s := s.beginTurn) h

theorem cycle_fetchRange {s : State} (input : CycleInput) (hrunning : s.Running) (hpc : topAddress < s.pc.toNat + 1) :
    cycle input s = .next ((s.setInput input).takeFault ⟨.fetchRange, s.pc, none, some s.pc.toNat⟩) := by
  simp only [cycle, hrunning, if_pos hpc]

theorem cycle_invalid {s : State} (input : CycleInput) (hrunning : s.Running) (hpc : s.pc.toNat + 1 ≤ topAddress)
    (hdecode : decodeWord s.fetchWord = none) :
    cycle input s = .next (((s.setInput input).setPc (s.pc + 2)).raise .invalidOpcode s.fetchWord none) := by
  simp only [cycle, hrunning, if_neg (Nat.not_lt.mpr hpc), hdecode]

theorem cycle_decoded {s : State} {i : Instr} (input : CycleInput) (hrunning : s.Running)
    (hpc : s.pc.toNat + 1 ≤ topAddress) (hdecode : decodeWord s.fetchWord = some i) :
    cycle input s = exec i ((s.setInput input).setPc (s.pc + 2)) := by
  simp only [cycle, hrunning, if_neg (Nat.not_lt.mpr hpc), hdecode]

theorem step_decoded {s : State} {i : Instr} (hrunning : s.Running) (hpc : s.pc.toNat + 1 ≤ topAddress)
    (hdecode : decodeWord s.fetchWord = some i) : step s = exec i s.postFetch :=
  cycle_decoded s.nextTurn.input (s := s.beginTurn) hrunning hpc hdecode

theorem decodeWord_of_decodeBytes_ok {hi lo : Byte} {i : Instr} (h : decodeBytes [hi, lo] = .ok (i, [])) :
    decodeWord (wordOfBytes hi lo) = some i := by
  simp only [decodeBytes] at h
  split at h
  · next hdecode => cases h; exact hdecode
  · cases h

theorem decodeWord_of_decodeBytes_invalid {hi lo : Byte} {w : Word} (h : decodeBytes [hi, lo] = .error (.invalid w)) :
    decodeWord (wordOfBytes hi lo) = none ∧ wordOfBytes hi lo = w := by
  simp only [decodeBytes] at h
  split at h
  · cases h
  · next hdecode => cases h; exact ⟨hdecode, rfl⟩

/-- Settles O6: the word the cycle fetches is that of the two bytes. -/
theorem stepRunsDecodedInstruction : Obligations.StepRunsDecodedInstruction :=
  fun _ _ hrunning hpc hbytes => step_decoded hrunning hpc (decodeWord_of_decodeBytes_ok hbytes)

/-- Settles O7: the host's turn is taken and the draws are loaded, but PC is not advanced. -/
theorem fetchOutOfRangeHalts : Obligations.FetchOutOfRangeHalts :=
  fun s hrunning hpc => cycle_fetchRange s.nextTurn.input (s := s.beginTurn) hrunning hpc

/-- Settles O8: the fault entry takes the word fetched and the post-fetch PC less 2, which is the PC before. -/
theorem invalidWordHalts : Obligations.InvalidWordHalts := by
  intro s w hrunning hpc hbytes
  obtain ⟨hdecode, rfl⟩ := decodeWord_of_decodeBytes_invalid hbytes
  have hstep : step s = .next (s.postFetch.raise .invalidOpcode s.fetchWord none) :=
    cycle_invalid s.nextTurn.input (s := s.beginTurn) hrunning hpc hdecode
  rw [hstep, State.raise, show s.postFetch.pc - 2 = s.pc from BitVec.add_sub_cancel s.pc 2]
  rfl

/-- Settles O9: a cycle looks at the halt record first, which the host's turn keeps. -/
theorem haltedCoreDoesNotStep : Obligations.HaltedCoreDoesNotStep :=
  fun _ _ h => ⟨step_halted h, fun input => cycle_halted input h⟩

end Sys2Proof.Machine
end

section
/-! The invariant (10_state.md sections 3, 4 and 10): the reset state meets it, an instruction keeps its bounds, a fault
entry writes a true halt record; so a cycle keeps it, and with it a step and a run. -/
namespace Sys2Proof.Machine

/-! ## Writes by BCD and SAVE -/

theorem read_afterSave_of_outside {s : State} {x : Reg} {b : Nat}
    (h : ¬ (s.i.toNat ≤ b ∧ b < s.i.toNat + (x.val + 1))) :
    Memory.read (s.afterSave x).mem b = Memory.read s.mem b := by
  rw [State.afterSave_mem, Memory.read_writeBytes, dif_neg]
  rintro ⟨hlo, hhi, -⟩
  exact h ⟨hlo, by rwa [savedBytes_length] at hhi⟩

theorem read_afterBcd_of_outside {s : State} {x : Reg} {b : Nat} (h : ¬ (s.i.toNat ≤ b ∧ b < s.i.toNat + 3)) :
    Memory.read (s.afterBcd x).mem b = Memory.read s.mem b := by
  simp only [State.afterBcd, State.setMem_mem, bcdMemory, Memory.read_writeIf]
  rw [if_neg (by omega), if_neg (by omega), if_neg (by omega)]

/-- An address of a span that passes its check is not in the font region. -/
theorem not_inFont_of_passes {i : Word} {n a : Nat} (hpass : ∀ b ∈ indexSpan i n, writeCheck b = none)
    (ha : InFont a) : ¬ (i.toNat ≤ a ∧ a < i.toNat + n) :=
  fun hspan => (writeCheck_eq_none.mp (hpass a (mem_indexSpan.mpr hspan))).2 ha

/-! ## The font region -/

/-- BCD and SAVE alone write memory, and they fault before a write into the font region. -/
theorem exec_read_font {i : Instr} {s t : State} {a : Nat} (ha : InFont a) (h : exec i s = .next t) :
    Memory.read t.mem a = Memory.read s.mem a := by
  cases i with
  | bcd x =>
    cases h
    exact State.guarded_eq (fun u : State => Memory.read u.mem a) _ _ _ (fun _ _ => rfl) fun hpass =>
      read_afterBcd_of_outside (not_inFont_of_passes hpass ha)
  | save x =>
    cases h
    exact State.guarded_eq (fun u : State => Memory.read u.mem a) _ _ _ (fun _ _ => rfl) fun hpass =>
      read_afterSave_of_outside (not_inFont_of_passes hpass ha)
  | load | draw =>
    cases h
    exact State.guarded_eq (fun u : State => Memory.read u.mem a) _ _ _ (fun _ _ => rfl) fun _ => rfl
  | skipPressed | skipNotPressed => cases h; exact onlyChanges_skipOnKey s _ _ _ .memory (by simp) a
  | ret | call | waitKey => cases h; split <;> rfl
  | addIndex => cases h; rw [State.setIndexFlag_mem, State.setI_mem]
  | _ => cases h; rfl

/-- Settles O14: a fault of the fetch or the decoder writes no memory, and no instruction writes into the font region. -/
theorem fontNeverReprogrammed : Obligations.FontNeverReprogrammed := by
  intro s t a ha h
  obtain ⟨-, ⟨-, rfl⟩ | ⟨-, -, rfl⟩ | ⟨i, -, -, hexec⟩⟩ := step_next_cases h
  · rfl
  · rfl
  · exact (exec_read_font ha hexec :)

/-! ## The bounds of the invariant -/

/-- The invariant without its clause on the halt record, and with a given bound on PC. -/
structure State.Bounded (pcMax : Nat) (s : State) : Prop where
  memory : Memory.Intact s.mem
  index : s.i.toNat ≤ 0xFFF
  pc : s.pc.toNat ≤ pcMax
  returns : ∀ k : Fin 16, (s.stack[k]).toNat ≤ 0x1000

theorem State.inv_iff {s : State} : s.Inv ↔ s.Bounded 0x1002 ∧ ∀ r, s.halt = some r → r.Truthful s :=
  ⟨fun h => ⟨⟨⟨h.memory, h.font⟩, h.index, h.pc, h.returns⟩, h.halt⟩,
    fun ⟨h, hhalt⟩ => ⟨h.memory.1, h.memory.2, h.index, h.pc, h.returns, hhalt⟩⟩

namespace State.Bounded

variable {s t : State} {m n : Nat}

theorem congr (h : s.Bounded m) (hmem : t.mem = s.mem) (hi : t.i = s.i) (hpc : t.pc = s.pc) (hstack : t.stack = s.stack) :
    t.Bounded m :=
  ⟨hmem ▸ h.memory, hi ▸ h.index, hpc ▸ h.pc, hstack ▸ h.returns⟩

theorem setPc (h : s.Bounded m) {p : Word} (hp : p.toNat ≤ n) : (s.setPc p).Bounded n :=
  ⟨h.memory, h.index, hp, h.returns⟩

theorem mono (h : s.Bounded m) (hmn : m ≤ n) : s.Bounded n := h.setPc (h.pc.trans hmn)

theorem setI (h : s.Bounded m) {a : Word} (ha : a.toNat ≤ 0xFFF) : (s.setI a).Bounded m :=
  ⟨h.memory, ha, h.pc, h.returns⟩

theorem setMem (h : s.Bounded m) {mem : Memory} (hmem : Memory.Intact mem) : (s.setMem mem).Bounded m :=
  ⟨hmem, h.index, h.pc, h.returns⟩

theorem setReg (h : s.Bounded m) (x : Reg) (b : Byte) : (s.setReg x b).Bounded m := h.congr rfl rfl rfl rfl

theorem setRegs (h : s.Bounded m) (v : Vector Byte 16) : (s.setRegs v).Bounded m := h.congr rfl rfl rfl rfl

theorem setFb (h : s.Bounded m) (fb : Framebuffer) : (s.setFb fb).Bounded m := h.congr rfl rfl rfl rfl

theorem push (h : s.Bounded m) {w : Word} (hw : w.toNat ≤ 0x1000) (hroom : s.sp.val < 16) :
    (s.push w hroom).Bounded m := by
  refine ⟨h.memory, h.index, h.pc, fun k => ?_⟩
  rw [State.push_stack, Fin.getElem_fin, Vector.getElem_set]
  split
  · exact hw
  · exact h.returns k

theorem drop (h : s.Bounded m) (hdepth : 0 < s.sp.val) : (s.drop hdepth).Bounded m := h.congr rfl rfl rfl rfl

theorem raise (h : s.Bounded m) (c : FaultCode) (w : Word) (a : Option Nat) : (s.raise c w a).Bounded m :=
  h.congr rfl rfl rfl rfl

/-- A skip moves PC by 2 at most. -/
theorem skipIf (h : s.Bounded 0x1000) (taken : Bool) : (s.skipIf taken).Bounded 0x1002 := by
  have hpc := h.pc
  refine h.setPc ?_
  split
  · rw [BitVec.toNat_add]
    exact (Nat.mod_le _ _).trans (Nat.add_le_add_right hpc 2)
  · omega

theorem guarded (h : s.Bounded m) {done : State} (check : Nat → Option FaultCode) (as : List Nat) (w : Word)
    (hdone : (∀ a ∈ as, check a = none) → done.Bounded m) : (s.guarded check as w done).Bounded m := by
  obtain ⟨hpass, hanswer⟩ | ⟨c, a, -, -, -, hanswer⟩ := s.guarded_cases check as w done
  · rw [hanswer]; exact hdone hpass
  · rw [hanswer]; exact h.raise c w (some a)

theorem afterBcd (h : s.Bounded m) (x : Reg) (hpass : ∀ a ∈ indexSpan s.i 3, writeCheck a = none) :
    (s.afterBcd x).Bounded m := by
  have hcheck : ∀ k < 3, writeCheck (s.i.toNat + k) = none := fun k hk => hpass _ (mem_indexSpan.mpr (by omega))
  exact h.setMem (Memory.intact_writeIf _ (hcheck 2 (by decide)) (Memory.intact_writeIf _ (hcheck 1 (by decide))
    (Memory.intact_writeIf _ (hcheck 0 (by decide)) h.memory)))

theorem afterSave (h : s.Bounded m) (x : Reg) (hpass : ∀ a ∈ indexSpan s.i (x.val + 1), writeCheck a = none) :
    (s.afterSave x).Bounded m := by
  refine (h.setMem (Memory.intact_writeBytes (fun k hk => hpass _ ?_) h.memory)).setI ?_
  · rw [savedBytes_length] at hk
    exact mem_indexSpan.mpr (by omega)
  · unfold savedIndex
    split
    · exact masked12_le _
    · exact h.index

theorem afterLoad (h : s.Bounded m) (x : Reg) : (s.afterLoad x).Bounded m := h.setRegs _

theorem afterDraw (h : s.Bounded m) (x y : Reg) (k : Nat) : (s.afterDraw x y k).Bounded m := (h.setFb _).setReg VF _

end State.Bounded

theorem jumpOffsetTarget_le (mode : JumpOffsetMode) (nnn : Word) (v : Vector Byte 16) :
    (jumpOffsetTarget mode nnn v).toNat ≤ 0xFFF := by
  cases mode <;> exact masked12_le _

theorem toNat_le_of_addressFits {nnn : Word} (h : addressFits nnn = true) : nnn.toNat ≤ 0xFFF := of_decide_eq_true h

/-- An instruction from a post-fetch PC keeps the bounds: a jump loads a masked address or a return address, a skip adds 2,
WAIT_KEY takes 2 off, and every write to I is masked. -/
theorem exec_bounded {i : Instr} {s t : State} (hwf : i.wellFormed = true) (hpc : 2 ≤ s.pc.toNat) (hs : s.Bounded 0x1000)
    (h : exec i s = .next t) : t.Bounded 0x1002 := by
  have hs' : s.Bounded 0x1002 := hs.mono (by decide)
  cases i with
  | jump nnn => cases h; exact hs.setPc ((toNat_le_of_addressFits hwf).trans (by decide))
  | jumpOffset nnn => cases h; exact hs.setPc ((jumpOffsetTarget_le ..).trans (by decide))
  | call nnn =>
    obtain ⟨hroom, rfl⟩ | ⟨-, rfl⟩ := exec_call_cases h
    · exact (hs.push hs.pc hroom).setPc ((toNat_le_of_addressFits hwf).trans (by decide))
    · exact hs'.raise _ _ _
  | ret =>
    obtain ⟨hdepth, rfl⟩ | ⟨-, rfl⟩ := exec_ret_cases h
    · exact (hs.drop hdepth).setPc ((hs.returns ⟨s.sp.val - 1, by omega⟩).trans (by decide))
    · exact hs'.raise _ _ _
  | skipEqImm | skipNeImm | skipEqReg | skipNeReg => cases h; exact hs.skipIf _
  | skipPressed x | skipNotPressed x =>
    cases h
    obtain ⟨-, hanswer⟩ | ⟨-, hanswer⟩ := s.skipOnKey_cases x _ _ <;> rw [hanswer]
    · exact hs'.raise _ _ _
    · exact hs.skipIf _
  | waitKey x =>
    obtain ⟨k, -, rfl⟩ | ⟨-, rfl⟩ := exec_waitKey_cases h
    · exact hs'.setReg x _
    · have hback := pc_sub_two_toNat s.pc
      have hmax := hs.pc
      exact hs.setPc (by omega)
  | setIndex nnn => cases h; exact hs'.setI (toNat_le_of_addressFits hwf)
  | pointChar x =>
    cases h
    refine hs'.setI ?_
    rw [charAddress_toNat]
    omega
  | addIndex x =>
    cases h
    exact (hs'.setI (masked12_le (s.i.toNat + (s.reg x).toNat))).congr (State.setIndexFlag_mem ..) (State.setIndexFlag_i ..)
      (State.setIndexFlag_pc ..) (State.setIndexFlag_stack ..)
  | bcd x => cases h; exact hs'.guarded _ _ _ (hs'.afterBcd x)
  | save x => cases h; exact hs'.guarded _ _ _ (hs'.afterSave x)
  | load x => cases h; exact hs'.guarded _ _ _ fun _ => hs'.afterLoad x
  | draw x y n => cases h; exact hs'.guarded _ _ _ fun _ => hs'.afterDraw x y n
  | _ => cases h; exact hs'.congr rfl rfl rfl rfl

/-! ## The halt record -/

/-- The codes of the fetch and of the decoder are raised by no instruction (R352). -/
theorem raises_execute_stage (i : Instr) : ∀ c ∈ raises i, c ≠ .fetchRange ∧ c ≠ .invalidOpcode := by
  cases i <;> simp [raises]

theorem truthful_raise_invalid {s : State} (input : CycleInput) (hpc : s.pc.toNat + 1 ≤ topAddress)
    (hdecode : decodeWord s.fetchWord = none) :
    HaltRecord.Truthful ⟨.invalidOpcode, s.pc + 2 - 2, some s.fetchWord, none⟩
      ((s.setInput input).setPc (s.pc + 2)) := by
  rw [BitVec.add_sub_cancel]
  exact ⟨rfl, rfl, hpc, rfl, hdecode⟩

theorem truthful_raise_decoded {s : State} {i : Instr} {c : FaultCode} {a : Option Nat} (input : CycleInput)
    (hpc : s.pc.toNat + 1 ≤ topAddress) (hdecode : decodeWord s.fetchWord = some i) (hc : c ∈ raises i)
    (ha : a.isSome = c.recordsDataAddress) :
    HaltRecord.Truthful ⟨c, s.pc + 2 - 2, some (encode i), a⟩ ((s.setInput input).setPc (s.pc + 2)) := by
  obtain ⟨hfetch, hinvalid⟩ := raises_execute_stage i c hc
  rw [BitVec.add_sub_cancel, Laws.encode_of_decodeWord hdecode, HaltRecord.Truthful, if_neg hfetch, if_neg hinvalid]
  exact ⟨rfl, rfl, hpc, ha, i, hdecode, hc⟩

/-! ## The cycle, the step and the run -/

/-- The post-fetch PC of a fetch in range. -/
theorem bounded_setInput_setPc {s : State} (input : CycleInput) (hs : s.Bounded 0x1002)
    (hpc : s.pc.toNat + 1 ≤ topAddress) :
    2 ≤ (s.pc + 2).toNat ∧ ((s.setInput input).setPc (s.pc + 2)).Bounded 0x1000 := by
  simp only [topAddress] at hpc
  have hpost : (s.pc + 2).toNat = s.pc.toNat + 2 := by
    have htwo : (2 : Word).toNat = 2 := rfl
    rw [BitVec.toNat_add, htwo]
    omega
  exact ⟨by omega, hs.memory, hs.index, by rw [State.setPc_pc, hpost]; omega, hs.returns⟩

theorem cycle_keeps_inv {input : CycleInput} {s t : State} (hs : s.Inv) (h : cycle input s = .next t) : t.Inv := by
  obtain ⟨hbounded, -⟩ := State.inv_iff.mp hs
  obtain ⟨_, -, hcycle⟩ | ⟨-, hpc, hcycle⟩ | ⟨-, hpc, hdecode, hcycle⟩ | ⟨i, hrunning, hpc, hdecode, hcycle⟩ :=
    cycle_cases input s
  all_goals rw [hcycle] at h
  · cases h
  · cases h
    refine State.inv_iff.mpr ⟨hbounded.congr rfl rfl rfl rfl, fun r hr => ?_⟩
    cases hr
    exact ⟨rfl, rfl, rfl, hpc⟩
  · cases h
    obtain ⟨-, hpost⟩ := bounded_setInput_setPc input hbounded hpc
    refine State.inv_iff.mpr ⟨(hpost.mono (by decide)).raise _ _ _, fun r hr => ?_⟩
    cases hr
    exact truthful_raise_invalid input hpc hdecode
  · obtain ⟨hpos, hpost⟩ := bounded_setInput_setPc input hbounded hpc
    refine State.inv_iff.mpr ⟨exec_bounded (wellFormed_of_decodeWord hdecode) hpos hpost h, fun r hr => ?_⟩
    obtain ⟨c, a, hc, ha, rfl⟩ := faultEntry_of_halt (s := (s.setInput input).setPc (s.pc + 2)) hrunning h hr
    cases hr
    exact truthful_raise_decoded input hpc hdecode hc ha

/-- Host operations touch no part the invariant speaks of. -/
theorem hostOps_keep_inv {s : State} (ops : List HostOp) (h : s.Inv) : (s.hostOps ops).Inv :=
  ⟨h.memory, h.font, h.index, h.pc, h.returns, h.halt⟩

theorem beginTurn_keeps_inv {s : State} (h : s.Inv) : s.beginTurn.Inv :=
  hostOps_keep_inv _ (s := s.takeTurn) ⟨h.memory, h.font, h.index, h.pc, h.returns, h.halt⟩

/-- Settles O11: the host's turn keeps the invariant, and so does the cycle, by what it can do. -/
theorem stepKeepsInvariant : Obligations.StepKeepsInvariant :=
  fun _ _ hs h => cycle_keeps_inv (beginTurn_keeps_inv hs) h

/-- Settles O12: memory lists nothing, every word is 0 but PC, and there is no halt record. -/
theorem resetMeetsInvariant : Obligations.ResetMeetsInvariant := by
  refine ⟨Memory.wf_nil, by simp, by simp, by decide, fun k => by simp, fun r hr => ?_⟩
  cases hr

theorem resetRom_eq_next {rom : List Byte} {s : State} (h : resetRom rom = .next s) :
    rom.length ≤ maxRom ∧ s = State.reset.setMem (Memory.writeBytes State.reset.mem programStart rom) := by
  unfold resetRom at h
  split at h
  · next hlength => cases h; exact ⟨hlength, rfl⟩
  · cases h

/-- The ROM region lies between the font region and the top of memory. -/
theorem resetRom_inv {rom : List Byte} {s : State} (h : resetRom rom = .next s) : s.Inv := by
  obtain ⟨hlength, rfl⟩ := resetRom_eq_next h
  obtain ⟨hreset, -⟩ := State.inv_iff.mp resetMeetsInvariant
  refine State.inv_iff.mpr ⟨hreset.setMem (Memory.intact_writeBytes (fun k hk => ?_) hreset.memory), fun r hr => ?_⟩
  · simp only [writeCheck_eq_none, topAddress, programStart, maxRom] at hlength ⊢
    omega
  · cases hr

/-- Settles O13: RESET establishes the invariant, host operations and cycles keep it. -/
theorem reachableStatesMeetInvariant : Obligations.ReachableStatesMeetInvariant := by
  intro s h
  induction h with
  | reset h => exact resetRom_inv h
  | host op _ ih => exact hostOps_keep_inv [op] ih
  | cycle input _ hc ih => exact cycle_keeps_inv ih hc

end Sys2Proof.Machine
end

section
/-! Control flow (41_control_flow.md): CALL, RETURN and the four skips, on all paths. -/
namespace Sys2Proof.Machine

/-! ## The stack -/

theorem getElem_push_stack (s : State) (w : Word) (h : s.sp.val < 16) (k : Fin 16) :
    (s.push w h).stack[k] = if k.val = s.sp.val then w else s.stack[k] := by
  rw [State.push_stack, Fin.getElem_fin, Vector.getElem_set]
  exact if_congr eq_comm rfl rfl

theorem State.top_eq {s : State} (h : 0 < s.sp.val) {k : Fin 16} (hk : k.val + 1 = s.sp.val) : s.top h = s.stack[k] := by
  have hindex : s.sp.val - 1 = k.val := by omega
  simp only [State.top, hindex, Fin.getElem_fin]

/-- Settles O22: CALL is a push and RETURN a drop, each with a write to PC. -/
theorem callPushesAndReturnPops : Obligations.CallPushesAndReturnPops := by
  refine ⟨fun nnn s hroom => ⟨_, exec_call_push nnn hroom, rfl, rfl, getElem_push_stack s s.pc hroom⟩,
    fun s hdepth => ⟨_, exec_ret_pop hdepth, ?_, rfl, fun k hk => State.top_eq hdepth hk⟩⟩
  exact Nat.sub_add_cancel hdepth

/-- Settles O24: RETURN finds at SP - 1 what CALL stored at SP. -/
theorem callThenReturn : Obligations.CallThenReturn := by
  intro nnn s t u hroom hcall hstack hsp
  obtain ⟨hcalls, hreturns⟩ := callPushesAndReturnPops
  obtain ⟨t', hcall', -, htsp, htstack⟩ := hcalls nnn s hroom
  obtain rfl : t' = t := next_inj.mp (hcall'.symm.trans hcall)
  obtain ⟨v, hret, hvsp, hvstack, hvpc⟩ := hreturns u (by omega)
  refine ⟨v, hret, ?_, Fin.ext (by omega), fun k hk => ?_⟩
  · rw [hvpc ⟨s.sp.val, hroom⟩ (by rw [hsp, htsp]), hstack, htstack, if_pos rfl]
  · rw [hvstack, hstack, htstack, if_neg (by omega)]

theorem State.haltedBy_eq_raise (s : State) (i : Instr) (code : FaultCode) (addr : Option Nat) :
    s.haltedBy i code addr = s.raise code (encode i) addr := rfl

/-- Settles O23: without room or depth, both are their fault entry. -/
theorem stackFaults : Obligations.StackFaults :=
  ⟨fun nnn _ hfull => exec_call_overflow nnn (by omega), fun _ hempty => exec_ret_underflow (by omega)⟩

/-! ## The skips -/

theorem State.skipIf_pc_toNat (s : State) (taken : Bool) :
    (s.skipIf taken).pc.toNat = (s.pc.toNat + if taken = true then 2 else 0) % 65536 := by
  cases taken
  · exact (Nat.mod_eq_of_lt s.pc.isLt).symm
  · exact BitVec.toNat_add s.pc 2

theorem State.skipIf_eq_pc_toNat (s : State) (a b : Byte) :
    (s.skipIf (a == b)).pc.toNat = (s.pc.toNat + if a.toNat = b.toNat then 2 else 0) % 65536 := by
  simp only [State.skipIf_pc_toNat, beq_iff_eq, BitVec.toNat_inj]

theorem State.skipIf_ne_pc_toNat (s : State) (a b : Byte) :
    (s.skipIf (a != b)).pc.toNat = (s.pc.toNat + if a.toNat = b.toNat then 0 else 2) % 65536 := by
  simp only [State.skipIf_pc_toNat, bne_iff_ne, BitVec.toNat_inj, ite_not, ne_eq]

/-- Settles O25: each is a skip on its test. -/
theorem skipsTestAndAddTwo : Obligations.SkipsTestAndAddTwo :=
  ⟨fun x nn s => ⟨_, exec_skipEqImm x nn s, s.skipIf_eq_pc_toNat (s.reg x) nn⟩,
    fun x nn s => ⟨_, exec_skipNeImm x nn s, s.skipIf_ne_pc_toNat (s.reg x) nn⟩,
    fun x y s => ⟨_, exec_skipEqReg x y s, s.skipIf_eq_pc_toNat (s.reg x) (s.reg y)⟩,
    fun x y s => ⟨_, exec_skipNeReg x y s, s.skipIf_ne_pc_toNat (s.reg x) (s.reg y)⟩⟩

/-! ## Frames -/

theorem exec_call_frame {nnn : Word} {s t : State} (h : exec (.call nnn) s = .next t) :
    OnlyChanges [.pc, .stack, .halt] s t ∧ ∀ k : Fin 16, k.val ≠ s.sp.val → t.stack[k] = s.stack[k] := by
  obtain ⟨hroom, rfl⟩ | ⟨-, rfl⟩ := exec_call_cases h
  · have hpush := (onlyChanges_push s s.pc hroom).mono (qs := [.pc, .stack, .halt]) (by simp)
    exact ⟨hpush.trans ((onlyChanges_setPc _ nnn).mono (by simp)),
      fun k hk => (getElem_push_stack s s.pc hroom k).trans (if_neg hk)⟩
  · exact ⟨(onlyChanges_raise s _ _ _).mono (by simp), fun _ _ => rfl⟩

theorem exec_ret_frame {s t : State} (h : exec .ret s = .next t) :
    OnlyChanges [.pc, .stack, .halt] s t ∧ t.stack = s.stack := by
  obtain ⟨hdepth, rfl⟩ | ⟨-, rfl⟩ := exec_ret_cases h
  · have hdrop := (onlyChanges_drop s hdepth).mono (qs := [.pc, .stack, .halt]) (by simp)
    exact ⟨hdrop.trans ((onlyChanges_setPc _ _).mono (by simp)), rfl⟩
  · exact ⟨(onlyChanges_raise s _ _ _).mono (by simp), rfl⟩

/-- Settles O26: the jumps and the skips are a write to PC; CALL and RETURN move the stack and write PC, or fault. -/
theorem controlFlowFrame : Obligations.ControlFlowFrame := by
  refine ⟨fun x y nn nnn s t h => ?_, fun _ _ _ h => exec_call_frame h, fun _ _ h => exec_ret_frame h⟩
  rcases h with h | h | h | h | h | h <;> cases h <;> exact onlyChanges_setPc s _

end Sys2Proof.Machine
end

section
/-! The register instructions that set a flag (42_register_alu.md R208 to R212), RAND, and the frames of all. -/
namespace Sys2Proof.Machine

/-! ## Results and flags -/

/-- A write of a result and a flag leaves their numbers as the policy says (R201). -/
theorem resultAndFlag_setResultFlag (s : State) (x : Reg) {r : Byte} {f : Bool} {rn fn : Nat} (hr : r.toNat = rn)
    (hf : (flagByte f).toNat = fn) : ResultAndFlag x rn fn (s.setResultFlag x r f) := by
  subst hr hf
  refine ⟨fun hx => ⟨?result, ?flag⟩, fun hx => ?policy⟩
  case result => rw [State.reg_setResultFlag, if_neg hx, if_pos rfl]
  case flag => rw [State.reg_setResultFlag, if_pos rfl, if_neg hx]
  case policy =>
    rw [State.reg_setResultFlag, if_pos rfl, if_pos hx]
    refine ⟨fun hp => ?_, fun hp => ?_, fun hp => ?_⟩ <;> rw [hp, aliasValue]
    split
    · exact .inl rfl
    · exact .inr rfl

theorem carryFlag_toNat (a b : Byte) :
    (flagByte (carryFlag a b)).toNat = if 255 < a.toNat + b.toNat then 1 else 0 := by
  simp only [flagByte_toNat, carryFlag, decide_eq_true_eq]

theorem greaterFlag_toNat (a b : Byte) : (flagByte (greaterFlag a b)).toNat = if b.toNat < a.toNat then 1 else 0 := by
  simp only [flagByte_toNat, greaterFlag, decide_eq_true_eq]

theorem sub_toNat_byte (a b : Byte) : (a - b).toNat = (a.toNat + 256 - b.toNat) % 256 := by
  have hb := b.isLt
  rw [BitVec.toNat_sub]
  congr 1
  omega

theorem lowBitFlag_toNat (b : Byte) : (flagByte (lowBitFlag b)).toNat = b.toNat % 2 := by
  simp only [flagByte_toNat, lowBitFlag, BitVec.getLsbD, Nat.testBit_zero, decide_eq_true_eq]
  split <;> omega

theorem highBitFlag_toNat (b : Byte) : (flagByte (highBitFlag b)).toNat = b.toNat / 128 := by
  have hb := b.isLt
  simp only [flagByte_toNat, highBitFlag, BitVec.getLsbD, Nat.testBit_eq_decide_div_mod_eq, decide_eq_true_eq]
  split <;> omega

theorem shiftRight_one_toNat (b : Byte) : (b >>> 1).toNat = b.toNat / 2 := by
  simp only [BitVec.toNat_ushiftRight, Nat.shiftRight_eq_div_pow, Nat.pow_one]

theorem shiftLeft_one_toNat (b : Byte) : (b <<< 1).toNat = 2 * b.toNat % 256 := by
  rw [BitVec.toNat_shiftLeft, Nat.shiftLeft_eq, Nat.pow_one, Nat.mul_comm]

theorem isShiftValue_shiftOperand (x y : Reg) (s : State) : IsShiftValue x y s (s.shiftOperand x y) := by
  refine ⟨fun hsource => ?_, fun hsource => ?_⟩ <;> rw [State.shiftOperand, hsource] <;> rfl

/-- Settles O29: a write of the sum and the carry. -/
theorem addRegResult : Obligations.AddRegResult :=
  fun x y s => ⟨_, exec_addReg x y s, resultAndFlag_setResultFlag s x (BitVec.toNat_add ..) (carryFlag_toNat ..)⟩

/-- Settles O30: a write of the difference and the strict comparison. -/
theorem subtractResults : Obligations.SubtractResults :=
  ⟨fun x y s => ⟨_, exec_sub x y s, resultAndFlag_setResultFlag s x (sub_toNat_byte ..) (greaterFlag_toNat ..)⟩,
    fun x y s => ⟨_, exec_subn x y s, resultAndFlag_setResultFlag s x (sub_toNat_byte ..) (greaterFlag_toNat ..)⟩⟩

/-- Settles O31: a write of the shifted operand and the bit shifted out. -/
theorem shiftResults : Obligations.ShiftResults :=
  ⟨fun x y s => ⟨_, s.shiftOperand x y, exec_shiftRight x y s, isShiftValue_shiftOperand x y s,
      resultAndFlag_setResultFlag s x (shiftRight_one_toNat _) (lowBitFlag_toNat _)⟩,
    fun x y s => ⟨_, s.shiftOperand x y, exec_shiftLeft x y s, isShiftValue_shiftOperand x y s,
      resultAndFlag_setResultFlag s x (shiftLeft_one_toNat _) (highBitFlag_toNat _)⟩⟩

/-- Settles O32: a write of the draw and the byte combined bit by bit. -/
theorem randResult : Obligations.RandResult := by
  intro x nn s
  refine ⟨_, exec_rand x nn s, fun k _ => ?_⟩
  rw [State.reg_setReg_same, BitVec.getLsbD_and]

/-! ## Frames -/

/-- Settles O33: a write to Vx alone, or one of a result and a flag. -/
theorem registerFrame : Obligations.RegisterFrame := by
  refine ⟨fun x y nn s t h => ?_, fun x y s t h => ?_⟩
  · rcases h with h | h | h | h | h | h | h | h <;> cases h <;> exact ⟨onlyRegs_setReg s x _, onlyChanges_setReg s x _⟩
  · rcases h with h | h | h | h | h <;> cases h <;>
      exact ⟨onlyRegs_setResultFlag s x _ _, onlyChanges_setResultFlag s x _ _⟩

end Sys2Proof.Machine
end

section
/-! Index register and memory (43_index_memory.md): ADD_INDEX; BCD, SAVE and LOAD where their span passes its check and
where an address of it fails; the frames of all. -/
namespace Sys2Proof.Machine

/-! ## ADD_INDEX -/

/-- Settles O35: a masked write to I, then the flag by the option. -/
theorem addIndexResult : Obligations.AddIndexResult := by
  refine fun x s => ⟨_, exec_addIndex x s, ?index, fun hset => ?set, fun hnever => ?never⟩
  case index => rw [State.setIndexFlag_i, State.setI_i, masked12_toNat]
  case set =>
    rw [State.reg_setIndexFlag, if_pos ⟨hset, rfl⟩, flagByte_toNat]
    simp only [indexOverflowFlag, decide_eq_true_eq]
  case never => rw [hnever]; rfl

/-- Settles O36: a write to I, which ADD_INDEX follows with its flag. -/
theorem indexFrame : Obligations.IndexFrame := by
  refine ⟨fun nnn x s t h => ?_, fun x s t h => ?_⟩
  · rcases h with h | h <;> cases h <;> exact onlyChanges_setI s _
  · rw [exec_addIndex] at h
    cases h
    have hindex := (onlyChanges_setI s (masked12 (s.i.toNat + (s.reg x).toNat))).mono (qs := [.index, .registers]) (by simp)
    refine ⟨hindex.trans ((onlyChanges_setIndexFlag _ _ _).mono (by simp)), onlyRegs_setIndexFlag (s.setI _) _ _,
      fun hnever => ?_⟩
    rw [hnever]
    rfl

/-! ## Spans that pass -/

theorem guarded_indexSpan_done {s done : State} {check : Nat → Option FaultCode} {n : Nat} {w : Word}
    (h : ∀ k < n, check (s.i.toNat + k) = none) : s.guarded check (indexSpan s.i n) w done = done :=
  State.guarded_done (firstFault_eq_none.mp (firstFault_indexSpan_none h))

theorem exec_bcd_done {x : Reg} {s : State} (h : ∀ k < 3, ¬ BadWrite (s.i.toNat + k)) :
    exec (.bcd x) s = .next (s.afterBcd x) := by
  rw [exec_bcd, guarded_indexSpan_done fun k hk => writeCheck_of_not_badWrite (h k hk)]

theorem exec_save_done {x : Reg} {s : State} (h : ∀ k ≤ x.val, ¬ BadWrite (s.i.toNat + k)) :
    exec (.save x) s = .next (s.afterSave x) := by
  rw [exec_save, guarded_indexSpan_done fun k hk => writeCheck_of_not_badWrite (h k (by omega))]

theorem exec_load_done {x : Reg} {s : State} (h : s.i.toNat + x.val ≤ 0xFFF) :
    exec (.load x) s = .next (s.afterLoad x) := by
  rw [exec_load, guarded_indexSpan_done fun k hk => readCheck_of_not_badRead (by simp only [BadRead]; omega)]

theorem le_topAddress_of_not_badWrite {a : Nat} (h : ¬ BadWrite a) : a ≤ topAddress := by
  simp only [BadWrite, not_or] at h
  exact Nat.not_lt.mp h.1

/-! ## BCD -/

theorem read_afterBcd {s : State} (x : Reg) (h : ∀ k < 3, ¬ BadWrite (s.i.toNat + k)) :
    Memory.read (s.afterBcd x).mem s.i.toNat = (hundredsDigit (s.reg x)).getD (Memory.read s.mem s.i.toNat) ∧
    Memory.read (s.afterBcd x).mem (s.i.toNat + 1) =
      (tensDigit Config.current.bcdUnsettled s.input.bcdZeroTens (s.reg x)).getD (Memory.read s.mem (s.i.toNat + 1)) ∧
    Memory.read (s.afterBcd x).mem (s.i.toNat + 2) =
      (onesDigit Config.current.bcdUnsettled s.input.bcdZeroOnes (s.reg x)).getD (Memory.read s.mem (s.i.toNat + 2)) := by
  have htop : s.i.toNat + 2 ≤ topAddress := le_topAddress_of_not_badWrite (h 2 (by decide))
  have h0 : s.i.toNat ≤ topAddress := by omega
  have h1 : s.i.toNat + 1 ≤ topAddress := by omega
  simp only [State.afterBcd, State.setMem_mem, bcdMemory, Memory.read_writeIf]
  simp [htop, h0, h1]

theorem unsettledByte_getD (old : Byte) (zeroIt : Bool) :
    UnsettledByte old ((unsettledDigit Config.current.bcdUnsettled zeroIt).getD old) := by
  refine ⟨fun hp => ?_, fun hp => ?_, fun hp => ?_⟩ <;> rw [hp, unsettledDigit]
  · rfl
  · rfl
  · cases zeroIt
    · exact .inl rfl
    · exact .inr rfl

theorem ofNat_digit_toNat {d : Nat} (h : d < 10) : (BitVec.ofNat 8 d).toNat = d := by
  rw [BitVec.toNat_ofNat]
  omega

/-- Settles O37: each of the three bytes is written with its digit, or is left alone or zeroed by the policy. -/
theorem bcdResult : Obligations.BcdResult := by
  intro x s h
  have hvx := (s.reg x).isLt
  obtain ⟨hhundreds, htens, hones⟩ := read_afterBcd x h
  refine ⟨_, exec_bcd_done h, fun hv => ?_, fun hv => ?_, fun hv => ?_, fun hv => ?_, fun hv => ?_, fun hv => ?_⟩
  · rw [hhundreds, hundredsDigit, if_pos hv, Option.getD_some, ofNat_digit_toNat (by omega)]
  · rw [hhundreds, hundredsDigit, if_neg (by omega), Option.getD_none]
  · rw [htens, tensDigit, if_pos hv, Option.getD_some, ofNat_digit_toNat (by omega)]
  · rw [htens, tensDigit, if_neg (by omega)]
    exact unsettledByte_getD _ _
  · rw [hones, onesDigit, if_pos hv, Option.getD_some, ofNat_digit_toNat (by omega)]
  · rw [hones, onesDigit, if_neg (by omega)]
    exact unsettledByte_getD _ _

/-! ## SAVE and LOAD -/

theorem read_afterSave {s : State} {x k : Reg} (hk : k ≤ x) (htop : s.i.toNat + k.val ≤ topAddress) :
    Memory.read (s.afterSave x).mem (s.i.toNat + k.val) = s.reg k := by
  have hlt : k.val < (savedBytes s.v x).length := by
    rw [savedBytes_length]
    exact Nat.lt_succ_of_le hk
  rw [State.afterSave_mem, Memory.read_writeBytes, dif_pos ⟨by omega, by omega, htop⟩]
  simp only [Nat.add_sub_cancel_left]
  exact savedBytes_get s.v x k hlt

/-- Settles O38: a block write of V0..Vx, then the write to I by the option. -/
theorem saveResult : Obligations.SaveResult := by
  intro x s h
  refine ⟨_, exec_save_done h, fun k hk => read_afterSave hk (le_topAddress_of_not_badWrite (h k.val hk)),
    fun hincrement => ?_, fun hkeep => ?_⟩
  · rw [State.afterSave_i, hincrement]
    exact masked12_toNat _
  · rw [State.afterSave_i, hkeep]
    rfl

/-- Settles O39: a write of the loaded registers. -/
theorem loadResult : Obligations.LoadResult :=
  fun x s h => ⟨_, exec_load_done h, rfl, s.reg_afterLoad x⟩

/-- Settles O42: LOAD reads where SAVE wrote. -/
theorem saveThenLoad : Obligations.SaveThenLoad := by
  intro x s t u hwritable hsave hmem hi
  obtain ⟨t', hsave', hstored, -, -⟩ := saveResult x s hwritable
  obtain rfl : t' = t := next_inj.mp (hsave'.symm.trans hsave)
  have htop : s.i.toNat + x.val ≤ topAddress := le_topAddress_of_not_badWrite (hwritable x.val le_rfl)
  obtain ⟨v, hload, -, hregs⟩ := loadResult x u (hi ▸ htop)
  refine ⟨v, hload, fun k hk => ?_⟩
  rw [hregs, if_pos hk, hmem, hi, hstored k hk]

/-! ## Spans that fail -/

theorem guarded_indexSpan_faults {s done : State} {check : Nat → Option FaultCode} {bad : Nat → Prop} {n a : Nat}
    {c : FaultCode} {w : Word} (h : LowestBad bad s.i.toNat n a) (hbad : bad a → check a = some c)
    (hgood : ∀ b, ¬ bad b → check b = none) : s.guarded check (indexSpan s.i n) w done = s.raise c w (some a) := by
  obtain ⟨hlo, hhi, ha, hlowest⟩ := h
  have hfirst := firstFault_indexSpan_some hlo hhi (hbad ha) fun b hb hba => hgood b (hlowest b hb hba)
  simp only [State.guarded, hfirst]

theorem guarded_write_faults {i : Instr} {s : State} (done : State) {n a : Nat} (h : LowestBad BadWrite s.i.toNat n a) :
    s.guarded writeCheck (indexSpan s.i n) (encode i) done = s.haltedBy i (badWriteCode a) (some a) :=
  guarded_indexSpan_faults h writeCheck_of_badWrite fun _ => writeCheck_of_not_badWrite

theorem guarded_read_faults {i : Instr} {s : State} (done : State) {n a : Nat} (h : LowestBad BadRead s.i.toNat n a) :
    s.guarded readCheck (indexSpan s.i n) (encode i) done = s.haltedBy i .memRange (some a) :=
  guarded_indexSpan_faults h readCheck_of_badRead fun _ => readCheck_of_not_badRead

/-- Settles O40: a guarded operation whose span has a bad address is the fault entry of the lowest one. -/
theorem memoryFaults : Obligations.MemoryFaults := by
  refine ⟨fun x s a h => ?_, fun x s a h => ?_, fun x s a h => ?_, fun x y n s a h => ?_⟩
  · rw [exec_bcd, guarded_write_faults _ h]
  · rw [exec_save, guarded_write_faults _ h]
  · rw [exec_load, guarded_read_faults _ h]
  · rw [exec_draw, guarded_read_faults _ h]

/-! ## Frames -/

theorem onlyBytes_guarded {s done : State} {a n : Nat} (check : Nat → Option FaultCode) (as : List Nat) (w : Word)
    (hdone : OnlyBytes a n s done) : OnlyBytes a n s (s.guarded check as w done) :=
  fun b hb => State.guarded_eq (fun u : State => Memory.read u.mem b) check as w (fun _ _ => rfl) fun _ => hdone b hb

theorem onlyChanges_afterSave (s : State) (x : Reg) : OnlyChanges [.memory, .index] s (s.afterSave x) :=
  ((onlyChanges_setMem s _).mono (by simp)).trans ((onlyChanges_setI _ _).mono (by simp))

/-- Settles O41: the frame of the guarded operation, whose writes are memory, memory and I, or registers. -/
theorem memoryFrame : Obligations.MemoryFrame := by
  refine ⟨fun x s t h => ?bcd, fun x s t h => ?save, fun x s t h => ?load⟩
  case bcd =>
    rw [exec_bcd] at h
    cases h
    exact ⟨onlyChanges_guarded _ _ _ (by simp) ((onlyChanges_setMem s _).mono (by simp)),
      onlyBytes_guarded _ _ _ fun b hb => read_afterBcd_of_outside hb⟩
  case save =>
    rw [exec_save] at h
    cases h
    refine ⟨onlyChanges_guarded _ _ _ (by simp) ((onlyChanges_afterSave s x).mono (by simp)),
      onlyBytes_guarded _ _ _ fun b hb => read_afterSave_of_outside hb,
      fun hkeep => State.guarded_eq State.i _ _ _ (fun _ _ => rfl) fun _ => ?_⟩
    rw [State.afterSave_i, hkeep]
    rfl
  case load =>
    rw [exec_load] at h
    cases h
    refine ⟨onlyChanges_guarded _ _ _ (by simp) ((onlyChanges_setRegs s _).mono (by simp)),
      fun r hr => State.guarded_eq (State.reg · r) _ _ _ (fun _ _ => rfl) fun _ => ?_⟩
    rw [State.reg_afterLoad, if_neg (not_le.mpr hr)]

end Sys2Proof.Machine
end

section
/-! DRAW (44_display.md R292 to R296): the clipped sprite is XORed onto every pixel, VF is the collision flag, and drawing a
second time restores the screen. -/
namespace Sys2Proof.Machine

/-- Drawing the rows draws the sprite. -/
theorem drawnCanvas_draws (x y : Reg) (n : Nat) (s : State) :
    Draws (spriteBit s x y n) (s.fb, false) (drawnCanvas x y n s) := by
  have hrows := drawRows_draws ((s.reg x).toNat % 64) ((s.reg y).toNat % 32) 0 (spriteRows s.mem s.i n) (s.fb, false)
  rwa [funext fun px => funext fun py => rowsBit_spriteRows s x y n px py] at hrows

theorem exec_draw_done {x y : Reg} {n : Nat} {s : State} (h : n = 0 ∨ s.i.toNat + (n - 1) ≤ 0xFFF) :
    exec (.draw x y n) s = .next (s.afterDraw x y n) := by
  rw [exec_draw, guarded_indexSpan_done fun k hk => readCheck_of_not_badRead (by simp only [BadRead]; omega)]

@[simp] theorem State.afterDraw_mem (s : State) (x y : Reg) (n : Nat) : (s.afterDraw x y n).mem = s.mem := rfl

@[simp] theorem State.afterDraw_i (s : State) (x y : Reg) (n : Nat) : (s.afterDraw x y n).i = s.i := rfl

theorem readPixel_afterDraw (s : State) (x y : Reg) (n : Nat) (px : Fin 64) (py : Fin 32) :
    (s.afterDraw x y n).fb.readPixel px py = (s.fb.readPixel px py ^^ spriteBit s x y n px py) :=
  (drawnCanvas_draws x y n s).pixel px py

theorem collision_iff_spriteMeets (s : State) (x y : Reg) (n : Nat) :
    (drawnCanvas x y n s).2 = true ↔ SpriteMeets s x y n true := by
  rw [(drawnCanvas_draws x y n s).collision]
  simp only [Bool.false_eq_true, false_or, SpriteMeets]

theorem reg_VF_afterDraw (s : State) (x y : Reg) (n : Nat) :
    (s.afterDraw x y n).reg VF = flagByte (drawnCanvas x y n s).2 := State.reg_setReg_same ..

/-- Settles O44: the canvas drawn, with its flag in VF. -/
theorem drawXorsTheSprite : Obligations.DrawXorsTheSprite := by
  refine fun x y n s h => ⟨_, exec_draw_done h, readPixel_afterDraw s x y n, fun hmeets => ?_, fun hmeets => ?_⟩
  · rw [reg_VF_afterDraw, (collision_iff_spriteMeets s x y n).mpr hmeets]
    rfl
  · rw [reg_VF_afterDraw, Bool.eq_false_iff.mpr fun hflag => hmeets ((collision_iff_spriteMeets s x y n).mp hflag)]
    rfl

/-- The sprite is what memory, I and the reduced origin say. -/
theorem spriteBit_congr {s t : State} {x y : Reg} (hmem : t.mem = s.mem) (hi : t.i = s.i)
    (hx : (t.reg x).toNat % 64 = (s.reg x).toNat % 64) (hy : (t.reg y).toNat % 32 = (s.reg y).toNat % 32) (n : Nat) :
    spriteBit t x y n = spriteBit s x y n := by
  funext px py
  simp only [spriteBit, hmem, hi, hx, hy]

/-- The bits that meet a pixel after the first draw are those that met the other value before it. -/
theorem spriteMeets_of_drawn {s t : State} {x y : Reg} {n : Nat} (hbit : spriteBit t x y n = spriteBit s x y n)
    (hpixel : ∀ px py, t.fb.readPixel px py = (s.fb.readPixel px py ^^ spriteBit s x y n px py)) :
    SpriteMeets t x y n true ↔ SpriteMeets s x y n false := by
  unfold SpriteMeets
  refine exists_congr fun px => exists_congr fun py => ?_
  rw [hbit, hpixel]
  refine and_congr_right fun hb => ?_
  rw [hb, Bool.xor_true, Bool.not_eq_true']

/-- Settles O45: the second draw XORs the same bits again, and meets what the first one turned on. -/
theorem drawTwiceRestoresScreen : Obligations.DrawTwiceRestoresScreen := by
  intro x y n s t h hdraw hx hy
  rw [exec_draw_done h] at hdraw
  cases hdraw
  have hbit : spriteBit (s.afterDraw x y n) x y n = spriteBit s x y n :=
    spriteBit_congr (s.afterDraw_mem x y n) (s.afterDraw_i x y n) hx hy n
  have hmeets := spriteMeets_of_drawn hbit (readPixel_afterDraw s x y n)
  obtain ⟨u, hdraw', hpixel, hcollides, hclear⟩ := drawXorsTheSprite x y n (s.afterDraw x y n) h
  refine ⟨u, hdraw', fun px py => ?_, fun hvf => ?_, fun hmet => hcollides (hmeets.mpr hmet)⟩
  · rw [hpixel, hbit, readPixel_afterDraw, Bool.xor_assoc, Bool.xor_self, Bool.xor_false]
  · by_contra hnot
    rw [hclear fun hmet => hnot (hmeets.mp hmet)] at hvf
    cases hvf

/-! ## Frames -/

theorem onlyChanges_afterDraw (s : State) (x y : Reg) (n : Nat) :
    OnlyChanges [.framebuffer, .registers] s (s.afterDraw x y n) :=
  ((onlyChanges_setFb s _).mono (by simp)).trans ((onlyChanges_setReg _ VF _).mono (by simp))

theorem onlyRegs_afterDraw (s : State) (x y : Reg) (n : Nat) : OnlyRegs [VF] s (s.afterDraw x y n) := fun y' hy' =>
  onlyRegs_setReg (s.setFb (drawnCanvas x y n s).1) VF _ y' hy'

/-- Settles O47: CLEAR is a write to the framebuffer; DRAW writes it and VF, or faults. -/
theorem displayFrame : Obligations.DisplayFrame := by
  refine ⟨fun s t h => ?_, fun x y n s t h => ?_⟩
  · cases h
    exact onlyChanges_setFb s _
  · rw [exec_draw] at h
    cases h
    exact ⟨onlyChanges_guarded _ _ _ (by simp) ((onlyChanges_afterDraw s x y n).mono (by simp)),
      (onlyRegs_afterDraw s x y n).guarded _ _ _⟩

end Sys2Proof.Machine
end

section
/-! Keys and timers (45_keys_timers.md, 60_exceptions.md section 3): the key skips on both sides of KEY_RANGE, a delay set
and read, and the frames. -/
namespace Sys2Proof.Machine

theorem skipOnKey_of_le {s : State} {x : Reg} (down : Bool) (w : Word) (h : (s.reg x).toNat ≤ 15) :
    s.skipOnKey x down w = s.skipIf (s.keys.getLsbD (s.reg x).toNat == down) := if_neg (Nat.not_lt.mpr h)

theorem skipOnKey_of_gt {s : State} {x : Reg} (down : Bool) (w : Word) (h : 15 < (s.reg x).toNat) :
    s.skipOnKey x down w = s.raise .keyRange w none := if_pos h

/-- Settles O48: a skip on the key's bit, or the fault entry of KEY_RANGE. -/
theorem keySkips : Obligations.KeySkips := by
  refine ⟨fun x s h => ⟨⟨_, exec_skipPressed x s, ?_⟩, ⟨_, exec_skipNotPressed x s, ?_⟩⟩,
    fun x s h => ⟨?_, ?_⟩⟩
  · rw [skipOnKey_of_le true _ h]
    refine ⟨onlyChanges_skipIf s _, ?_⟩
    rw [State.skipIf_pc_toNat]
    cases s.keys.getLsbD (s.reg x).toNat <;> rfl
  · rw [skipOnKey_of_le false _ h]
    refine ⟨onlyChanges_skipIf s _, ?_⟩
    rw [State.skipIf_pc_toNat]
    cases s.keys.getLsbD (s.reg x).toNat <;> rfl
  · rw [exec_skipPressed, skipOnKey_of_gt true _ h, State.haltedBy_eq_raise]
  · rw [exec_skipNotPressed, skipOnKey_of_gt false _ h, State.haltedBy_eq_raise]

/-- The ticks of a delay read `d` milliseconds after it was set (R370). -/
theorem Timer.ticks_of_elapsed {T : Timer} {now : Time} {d : Nat} (h : now.toInt = T.ts.toInt + d) :
    T.ticks now = ((60 * d / 1000 : Nat) : Int) := by
  rw [Timer.ticks, Timer.elapsed, h]
  omega

/-- Settles O52: what is read is the timer (now, Vx), inactive at 0 and else less its ticks. -/
theorem setDelayThenRead : Obligations.SetDelayThenRead := by
  intro x y s t u hset hdt
  rw [exec_setDelay] at hset
  cases hset
  rw [State.setDt_dt] at hdt
  refine ⟨_, exec_readDelay y u, fun hzero => ?_, fun d hactive hlater => ?_⟩
  · rw [State.reg_setReg_same, hdt, Timer.read_inactive hzero]
  · have hread := Timer.read_active (t := Timer.load (s.reg x) s.input.now) hactive u.input.now
    rw [Timer.ticks_of_elapsed hlater, Timer.load_val] at hread
    rw [State.reg_setReg_same, hdt]
    omega

/-- Settles O53: each outcome is one write, or a fault entry. -/
theorem keysTimersFrame : Obligations.KeysTimersFrame := by
  refine ⟨fun x s t h => ?_, fun x s t h => ?_, fun x s t h => ?_, fun x s t h => ?_⟩
  · rcases h with h | h <;> cases h <;> exact onlyChanges_skipOnKey s x _ _
  · obtain ⟨k, -, rfl⟩ | ⟨-, rfl⟩ := exec_waitKey_cases h
    · exact ⟨(onlyChanges_setReg s x _).mono (by simp), onlyRegs_setReg s x _⟩
    · exact ⟨(onlyChanges_setPc s _).mono (by simp), fun _ _ => rfl⟩
  · cases h
    exact onlyChanges_setDt s _
  · cases h
    exact onlyChanges_setSt s _

end Sys2Proof.Machine
end

section
/-! The host's operations (60_exceptions.md sections 4 and 5), RESET (70_reset_and_hazards.md), and the idle end of a run
(R416). -/
namespace Sys2Proof.Machine

/-! ## The host -/

theorem State.hostOps_cons (s : State) (op : HostOp) (ops : List HostOp) :
    s.hostOps (op :: ops) = (s.hostOp op).hostOps ops := rfl

theorem State.hostOps_eq_foldl (s : State) (ops : List HostOp) : s.hostOps ops = ops.foldl State.hostOp s := by
  induction ops generalizing s with
  | nil => rfl
  | cons op ops ih => rw [State.hostOps_cons, ih, List.foldl_cons]

theorem onlyChanges_hostOps (s : State) (ops : List HostOp) : OnlyChanges [.keys, .sound] s (s.hostOps ops) :=
  ((onlyChanges_setKeys s _).mono (by simp)).trans ((onlyChanges_setSnd _ _).mono (by simp))

/-- Settles O10: the folds over the keys and SND are the fold over the state, by induction on the operations. -/
theorem hostTurnIsItsOperations : Obligations.HostTurnIsItsOperations :=
  fun s ops => ⟨s.hostOps_eq_foldl ops, onlyChanges_hostOps s ops⟩

/-- Settles O55: SET_KEYS is a write to the keys, READ_PIXEL writes the keys and SND back as they were. -/
theorem setKeysReplacesAllKeys : Obligations.SetKeysReplacesAllKeys :=
  ⟨fun s k => ⟨fun _ _ => rfl, onlyChanges_setKeys s k⟩, fun _ _ _ => rfl,
    fun _ _ _ h => (cycle_sameSoundAndKeys h).2⟩

/-! ## RESET -/

/-- Settles O56: the fields by their values, the bytes by what unlisted addresses read as. -/
theorem resetValues : Obligations.ResetValues := by
  refine ⟨rfl, rfl, rfl, State.reg_reset, fun k => ?stack, Framebuffer.readPixel_fill false, fun k => ?keys, rfl, rfl, rfl,
    rfl, fun k => ?font, fun a ha => Memory.unlisted_zero ha⟩
  case stack => rw [State.reset_stack, Fin.getElem_fin, Vector.getElem_replicate]
  case keys => rw [State.reset_keys]; exact BitVec.getLsbD_zero
  case font =>
    have hk := k.isLt
    have hfont : InFont (0x050 + k.val) := by constructor <;> omega
    have hread := Memory.unlisted_font hfont (by simp only [fontBase]; omega)
    simpa [fontBase] using hread

theorem resetRom_of_le {rom : List Byte} (h : rom.length ≤ 3584) :
    resetRom rom = .next (State.reset.setMem (Memory.writeBytes State.reset.mem programStart rom)) := if_pos h

/-- Settles O57: a block write at 0x200, which a ROM of legal length does not run out of. -/
theorem resetPlacesRom : Obligations.ResetPlacesRom := by
  refine fun rom => ⟨fun hlength => ⟨_, resetRom_of_le hlength, onlyChanges_setMem _ _, fun k hk => ?_,
    fun b hb => ?_⟩, fun hlong => if_neg (Nat.not_le.mpr hlong)⟩
  · rw [State.setMem_mem, Memory.read_writeBytes,
      dif_pos ⟨Nat.le_add_right _ _, by simp only [programStart]; omega, by simp only [topAddress]; omega⟩]
    simp only [programStart, Nat.add_sub_cancel_left]
  · rw [State.setMem_mem, Memory.read_writeBytes, dif_neg fun ⟨hlo, hhi, _⟩ => hb ⟨hlo, hhi⟩]

/-! ## The self-jump -/

theorem onlyChanges_beginTurn (s : State) : OnlyChanges [.keys, .sound, .hostInputs] s s.beginTurn := by
  apply OnlyChanges.of_fields
  case keys | sound | hostInputs => intro h; simp at h
  all_goals simp

theorem onlyChanges_setInput (s : State) (input : CycleInput) : OnlyChanges [.hostInputs] s (s.setInput input) := by
  apply OnlyChanges.of_fields
  case hostInputs => intro h; simp at h
  all_goals simp

/-- A step of a self-jump takes the host's turn and its draws, and leaves PC where it was. -/
theorem step_selfJump {s : State} (h : s.AtSelfJump) : step s = .next (s.beginTurn.setInput s.nextTurn.input) := by
  obtain ⟨hrunning, hpc, hdecode⟩ := h
  rw [step_decoded hrunning hpc hdecode]
  rfl

theorem run_selfJump (k : Nat) {s : State} (h : s.AtSelfJump) :
    ∃ t, core.run k s = .next t ∧ t.AtSelfJump ∧ OnlyChanges [.keys, .sound, .hostInputs] s t := by
  induction k generalizing s with
  | zero => exact ⟨s, rfl, h, OnlyChanges.refl _ s⟩
  | succ k ih =>
    obtain ⟨hrunning, hpc, hdecode⟩ := h
    have hstep : core.step s = .next (s.beginTurn.setInput s.nextTurn.input) := step_selfJump ⟨hrunning, hpc, hdecode⟩
    obtain ⟨t, hrun, ht, hframe⟩ := ih (s := s.beginTurn.setInput s.nextTurn.input) ⟨hrunning, hpc, hdecode⟩
    have hturn := (onlyChanges_beginTurn s).trans ((onlyChanges_setInput _ s.nextTurn.input).mono (by simp))
    refine ⟨t, ?_, ht, hturn.trans hframe⟩
    simp only [Host.Core.run, hstep]
    exact hrun

/-- Settles O58: by induction on the number of steps, each of which lands in a self-jump again. -/
theorem selfJumpIdles : Obligations.SelfJumpIdles := fun _ k h => run_selfJump k h

end Sys2Proof.Machine
end
